-- ==== Sys2Proof/Word.lean ====
section
/-! DEFINITION. The widths the spec gives the block: a byte of BUF, a 32-bit register (spec/00_scope.md R7, R8),
and a byte string, first byte at the lowest offset (R9). -/

namespace Sys2Proof

/-- One byte of BUF (10_state R33). -/
abbrev Byte := BitVec 8

/-- One 32-bit register, command word or Salsa20 word (00_scope R7, 42_salsa20 R170). -/
abbrev Word := BitVec 32

/-- A byte string `B`, with `B[0]` the byte at the lowest offset (00_scope R9). -/
abbrev Bytes := List Byte

end Sys2Proof
end

