-- ==== Sys2Proof/Machine/ErrCode.lean ====
section
/-! DEFINITION. The error codes a command completes with (60_exceptions R260, R261). -/

namespace Sys2Proof

/-- The nine values of STATUS.ERRCODE; "no other value ever appears" (60_exceptions R260). -/
inductive ErrCode where
  | ok
  | opcode
  | reserved
  | flag
  | range
  | length
  | overlap
  | auth
  | unsupported
  deriving DecidableEq, Repr

/-- The three classes of 60_exceptions R261, and success. -/
inductive ErrClass where
  | success
  | argumentContract
  | authentication
  | unsupportedFeature
  deriving DecidableEq, Repr

/-- The number of a code in STATUS bits 15:8 (60_exceptions R260). -/
def ErrCode.number : ErrCode → Byte
  | .ok => 0x00#8
  | .opcode => 0x01#8
  | .reserved => 0x02#8
  | .flag => 0x03#8
  | .range => 0x10#8
  | .length => 0x11#8
  | .overlap => 0x12#8
  | .auth => 0x20#8
  | .unsupported => 0x30#8

/-- The class a host reads off the number alone: 0x01 to 0x1F, 0x20 to 0x2F, 0x30 to 0x3F (60_exceptions R261).
A number outside these ranges is no code of the block and has no class. -/
def ErrClass.ofNumber (n : Byte) : Option ErrClass :=
  if n.toNat = 0 then some .success
  else if n.toNat < 0x20 then some .argumentContract
  else if n.toNat < 0x30 then some .authentication
  else if n.toNat < 0x40 then some .unsupportedFeature
  else none

end Sys2Proof
end

