-- ==== Sys2Proof/Syntax.lean ====
section
/-! DEFINITION. The commands of the block: one constructor for each row of spec/opcode_table.json. -/

namespace Sys2Proof

/-- A command of the SNL-CORE command set (30_encoding R98). A command names no operand: its operands are the latched
ARG registers (R96, R97). `alt` is the A bit of the three rows that leave it open (R93); `ic` is the I bit of the four
rows that leave it open (R94). -/
inductive Instr where
  /-- NOP, OP 0x00 (45_control R255). -/
  | nop
  /-- CLAMP, OP 0x01 (41_x25519 R155). -/
  | clamp
  /-- X25519_RAW, OP 0x02 (41_x25519 R156). -/
  | x25519Raw
  /-- X25519, OP 0x03 (41_x25519 R157). -/
  | x25519
  /-- X25519_BASE, OP 0x04 (41_x25519 R158). -/
  | x25519Base
  /-- SALSA20_ROUNDS, OP 0x10 (42_salsa20 R180). -/
  | salsa20Rounds (alt : Bool)
  /-- SALSA20_BLOCK, OP 0x11 (42_salsa20 R181). -/
  | salsa20Block (alt : Bool)
  /-- HSALSA20, OP 0x12 (42_salsa20 R182). -/
  | hsalsa20 (alt : Bool)
  /-- SALSA20_XOR, OP 0x13 (42_salsa20 R184). -/
  | salsa20Xor (ic : Bool)
  /-- XSALSA20_XOR, OP 0x14 (42_salsa20 R186). -/
  | xsalsa20Xor (ic : Bool)
  /-- SALSA20_STREAM, OP 0x15 (42_salsa20 R183). -/
  | salsa20Stream (ic : Bool)
  /-- XSALSA20_STREAM, OP 0x16 (42_salsa20 R185). -/
  | xsalsa20Stream (ic : Bool)
  /-- POLY1305, OP 0x20 (43_poly1305 R205). -/
  | poly1305
  /-- POLY1305_VERIFY, OP 0x21 (43_poly1305 R206). -/
  | poly1305Verify
  /-- BOX_BEFORENM, OP 0x30 (44_box R223). -/
  | boxBeforenm
  /-- BOX_AFTERNM, OP 0x31 (44_box R224). -/
  | boxAfternm
  /-- BOX_OPEN_AFTERNM, OP 0x32 (44_box R225). -/
  | boxOpenAfternm
  /-- BOX_ENCRYPT_SYM, OP 0x33 (44_box R226). -/
  | boxEncryptSym
  /-- BOX_DECRYPT_SYM, OP 0x34 (44_box R227). -/
  | boxDecryptSym
  deriving DecidableEq, Repr

end Sys2Proof
end

