-- ==== Sys2Proof/Decode.lean ====
section
/-! DEFINITION. The decoder of the command word (30_encoding R91, R98, R99, R102) and the encoder beside it. -/

namespace Sys2Proof

/-- OP, bits 7:0 of the command word (30_encoding R91). -/
def fieldOP (w : Word) : Byte := w.extractLsb' 0 8

/-- A (ALT_CONST), bit 8 (30_encoding R91). -/
def fieldA (w : Word) : Bool := w.getLsbD 8

/-- I (EXPLICIT_IC), bit 9 (30_encoding R91). -/
def fieldI (w : Word) : Bool := w.getLsbD 9

/-- RES, bits 31:10 (30_encoding R91). -/
def fieldRES (w : Word) : BitVec 22 := w.extractLsb' 10 22

/-- A row that fixes both flags at 0: a set flag is ERR_FLAG (30_encoding R93, R94). -/
def formPlain (i : Instr) (alt ic : Bool) : Except ErrCode Instr :=
  if alt || ic then .error .flag else .ok i

/-- A row that leaves A open; I = 1 is ERR_FLAG (30_encoding R93, R94). -/
def formAlt (f : Bool → Instr) (alt ic : Bool) : Except ErrCode Instr :=
  if ic then .error .flag else .ok (f alt)

/-- A row that leaves I open; A = 1 is ERR_FLAG, whatever I is (30_encoding R93, R94, R102). -/
def formIc (f : Bool → Instr) (alt ic : Bool) : Except ErrCode Instr :=
  if alt then .error .flag else .ok (f ic)

/-- The opcode map (30_encoding R98); an OP outside it is ERR_OPCODE (R99). -/
def decodeOP (op : Byte) (alt ic : Bool) : Except ErrCode Instr :=
  match op.toNat with
  | 0x00 => formPlain .nop alt ic
  | 0x01 => formPlain .clamp alt ic
  | 0x02 => formPlain .x25519Raw alt ic
  | 0x03 => formPlain .x25519 alt ic
  | 0x04 => formPlain .x25519Base alt ic
  | 0x10 => formAlt .salsa20Rounds alt ic
  | 0x11 => formAlt .salsa20Block alt ic
  | 0x12 => formAlt .hsalsa20 alt ic
  | 0x13 => formIc .salsa20Xor alt ic
  | 0x14 => formIc .xsalsa20Xor alt ic
  | 0x15 => formIc .salsa20Stream alt ic
  | 0x16 => formIc .xsalsa20Stream alt ic
  | 0x20 => formPlain .poly1305 alt ic
  | 0x21 => formPlain .poly1305Verify alt ic
  | 0x30 => formPlain .boxBeforenm alt ic
  | 0x31 => formPlain .boxAfternm alt ic
  | 0x32 => formPlain .boxOpenAfternm alt ic
  | 0x33 => formPlain .boxEncryptSym alt ic
  | 0x34 => formPlain .boxDecryptSym alt ic
  | _ => .error .opcode

/-- `Decode(w)` of 30_encoding R102, total over all command words. DEDUCED (notes/assumptions/8.md), safe: R102's last
error, ERR_UNSUPPORTED for I = 1 on 0x13 to 0x16, is here the instruction form with `ic = true`, which
spec/opcode_table.json gives those rows; its meaning completes with exactly that error. -/
def decode (w : Word) : Except ErrCode Instr :=
  if fieldRES w = 0#22 then decodeOP (fieldOP w) (fieldA w) (fieldI w) else .error .reserved

/-- The opcode of a command (30_encoding R98). -/
def Instr.op : Instr → Byte
  | .nop => 0x00#8
  | .clamp => 0x01#8
  | .x25519Raw => 0x02#8
  | .x25519 => 0x03#8
  | .x25519Base => 0x04#8
  | .salsa20Rounds _ => 0x10#8
  | .salsa20Block _ => 0x11#8
  | .hsalsa20 _ => 0x12#8
  | .salsa20Xor _ => 0x13#8
  | .xsalsa20Xor _ => 0x14#8
  | .salsa20Stream _ => 0x15#8
  | .xsalsa20Stream _ => 0x16#8
  | .poly1305 => 0x20#8
  | .poly1305Verify => 0x21#8
  | .boxBeforenm => 0x30#8
  | .boxAfternm => 0x31#8
  | .boxOpenAfternm => 0x32#8
  | .boxEncryptSym => 0x33#8
  | .boxDecryptSym => 0x34#8

/-- The A bit of a command (30_encoding R93). -/
def Instr.altBit : Instr → Bool
  | .salsa20Rounds alt => alt
  | .salsa20Block alt => alt
  | .hsalsa20 alt => alt
  | _ => false

/-- The I bit of a command (30_encoding R94). -/
def Instr.icBit : Instr → Bool
  | .salsa20Xor ic => ic
  | .xsalsa20Xor ic => ic
  | .salsa20Stream ic => ic
  | .xsalsa20Stream ic => ic
  | _ => false

/-- `word = (I << 9) | (A << 8) | OP` (30_encoding R104), with RES = 0 (R91). -/
def commandWord (op : Byte) (alt ic : Bool) : Word :=
  (BitVec.ofBool ic).setWidth 32 <<< 9 ||| (BitVec.ofBool alt).setWidth 32 <<< 8 ||| op.setWidth 32

/-- The command word of a command (30_encoding R98, R104). -/
def encode (i : Instr) : Word := commandWord i.op i.altBit i.icBit

/-- The match word of the command's row in spec/opcode_table.json. -/
def Instr.tableMatch (i : Instr) : Word := i.op.setWidth 32

/-- The mask of the command's row in spec/opcode_table.json: the three A rows leave bit 8 open, the four I rows leave
bit 9 open. -/
def Instr.tableMask : Instr → Word
  | .salsa20Rounds _ => 0xFFFFFEFF#32
  | .salsa20Block _ => 0xFFFFFEFF#32
  | .hsalsa20 _ => 0xFFFFFEFF#32
  | .salsa20Xor _ => 0xFFFFFDFF#32
  | .xsalsa20Xor _ => 0xFFFFFDFF#32
  | .salsa20Stream _ => 0xFFFFFDFF#32
  | .xsalsa20Stream _ => 0xFFFFFDFF#32
  | _ => 0xFFFFFFFF#32

/-- The word that the host's table numbers as `w` with `nbits` bits. A command is one 32-bit word (30_encoding R90),
numbered as the register CMD numbers it; every bit from `nbits` up is 0. -/
def tableWord (nbits w : Nat) : Word := BitVec.ofNat 32 (w % 2 ^ nbits)

/-- What the decoder reads from the word the table numbers `w`; none where it answers an error code. -/
def decodeTableWord (nbits w : Nat) : Option Instr :=
  match decode (tableWord nbits w) with
  | .ok i => some i
  | .error _ => none

end Sys2Proof
end

