-- ==== Sys2Proof/Machine/Bytes.lean ====
section
/-! DEFINITION. Byte strings and integers: `le`, `le_N`, slices, zeros, XOR and `rotl32` (00_scope R8 to R10,
20_memory R60). -/

namespace Sys2Proof.Machine

/-- `le(B)`: the integer whose little-endian encoding is B (00_scope R10). -/
def le : Bytes → Nat
  | [] => 0
  | b :: bs => b.toNat + 256 * le bs

/-- `le_N(v)`: the N-byte little-endian encoding of v (00_scope R10). The spec defines it for v < 2^(8N) only; every
use in the model is on such a v. -/
def leN : Nat → Nat → Bytes
  | 0, _ => []
  | n + 1, v => BitVec.ofNat 8 v :: leN n (v / 256)

/-- `B[i:j]`, bytes i to j-1 (00_scope R9). -/
def slice (B : Bytes) (i j : Nat) : Bytes := (B.drop i).take (j - i)

/-- `zeros(n)` (00_scope R9). -/
def zeros (n : Nat) : Bytes := List.replicate n 0#8

/-- `[A[i] ^ B[i] for i in ...]` on strings of one length (00_scope R8). -/
def xorBytes (A B : Bytes) : Bytes := List.zipWith (fun a b => a ^^^ b) A B

/-- `rotl32(v, c)` for 0 < c < 32 (00_scope R8). -/
def rotl32 (v : Word) (c : Nat) : Word := (v <<< c) ||| (v >>> (32 - c))

/-- The 4-byte little-endian encoding of a word, `le_4(y)` (00_scope R10). -/
def wordBytes (y : Word) : Bytes := leN 4 y.toNat

/-- `ceil(n / m)` for m > 0, the number of blocks of m bytes in n bytes. -/
def ceilDiv (n m : Nat) : Nat := (n + (m - 1)) / m

/-- The 32-bit value of up to four bytes, little-endian lanes (20_memory R61). -/
def laneWord (B : Bytes) : Word := BitVec.ofNat 32 (le B)

end Sys2Proof.Machine
end

