-- ==== Sys2Proof/Config.lean ====
section
/-! DEFINITION. What an implementation fixes (BUF_SIZE) and what the spec leaves to "any value" (free bytes). -/

namespace Sys2Proof

/-- The free value of the model (93_implementation_defined U1, U2; 20_memory R65, R67): the `n`-th byte that is drawn
where the spec says "any value". It has no body, so nothing can be proved of its value.
DESIGN CHOICE (notes/assumptions/5.md), safe. -/
opaque Config.freeByte : Nat → Byte

/-- The BUF_SIZE of the block that `State.reset` describes. BUF_SIZE is an open parameter (00_scope R7, R36); the
spec's examples use 4096. DESIGN CHOICE (notes/assumptions/1.md), unsafe only for a statement about `State.reset`
itself: every other statement speaks of any value the register BUFSZ may hold. -/
def Config.bufSizeOfReset : Word := 4096#32

/-- The values BUF_SIZE may take: a multiple of 64 from 256 to 2^24 (00_scope R7, 92 D3). -/
def Config.legalBufSize (n : Nat) : Bool := n % 64 == 0 && decide (256 ≤ n) && decide (n ≤ 2 ^ 24)

end Sys2Proof
end

