-- ==== Sys2Proof/Machine/HostTypes.lean ====
section
/-! DEFINITION. What the host can do to the block, as plain data: one access (20_memory R62, R63), one operation of a
host program, one line of the host notation (30_encoding R103 to R105), and whose turn it is (20_memory R77). -/

namespace Sys2Proof.Machine

/-- One host access at host byte offset `h`. The four kinds the block supports are the first four; every access of
another width is `otherWidth` (20_memory R62, R63: "any other width"). -/
inductive HostAccess where
  | rd8 (h : Nat)
  | wr8 (h : Nat) (v : Byte)
  | rd32 (h : Nat)
  | wr32 (h : Nat) (v : Word)
  | otherWidth (bits : Nat) (h : Nat)
  deriving DecidableEq, Repr

/-- What a host read answered, as wide as the read. -/
inductive Reply where
  | byte (v : Byte)
  | word (v : Word)
  deriving DecidableEq, Repr

/-- One operation of a host program: an access, or one of the host-side instructions of 30_encoding R105. Jump targets
are places in the program; the host stops at a place past its end. -/
inductive HostOp where
  | access (a : HostAccess)
  /-- one pass of `wait`: read STATUS, and stay while bit 0 of the value is 1 -/
  | wait
  | jump (target : Nat)
  /-- `b.err`: jump iff bits 15:8 of the last STATUS value read by `wait` are not 0 -/
  | jumpErr (target : Nat)
  deriving DecidableEq, Repr

/-- The operand names of the command pseudo-instruction (30_encoding R104). -/
inductive OperandName where
  | dst
  | tag
  | src
  | u
  | pk
  | msg
  | len
  | k
  | sk
  | key
  | n
  | inp
  | c
  deriving DecidableEq, Repr

/-- A register name of a `<target>` (30_encoding R103). -/
inductive RegName where
  | id
  | version
  | bufsz
  | cmd
  | status
  | irqEn
  | arg (i : Fin 8)
  deriving DecidableEq, Repr

/-- A `<target>`: a register name or `buf+<off>` (30_encoding R103). -/
inductive Target where
  | reg (r : RegName)
  | buf (off : Nat)
  deriving DecidableEq, Repr

/-- One line of a host program (30_encoding R103 to R105). Labels are numbers here. `command` carries the opcode its
mnemonic names, the `.alt` and `.ic` marks, and the named operands in the order written. -/
inductive HostLine where
  | wr32 (t : Target) (v : Word)
  | rd32 (t : Target)
  | wr8 (off : Nat) (v : Byte)
  | rd8 (off : Nat)
  | command (op : Byte) (alt ic : Bool) (operands : List (OperandName × Word))
  | wrbuf (off : Nat) (bytes : Bytes)
  | rdbuf (off : Nat) (n : Nat)
  | wait
  | b (label : Nat)
  | bErr (label : Nat)
  | label (l : Nat)
  | clrdone
  deriving DecidableEq, Repr

/-- Whose step comes next in the one total order of host accesses and engine steps (20_memory R77), or an assertion of
the reset input (70_reset_and_hazards R290). -/
inductive Turn where
  | host
  | engine
  | reset
  deriving DecidableEq, Repr

end Sys2Proof.Machine
end

