-- ==== Sys2Proof/Machine/State.lean ====
section
/-! DEFINITION. The state of the block as plain data, the reasons a step can stop, and the state after reset. -/

namespace Sys2Proof.Machine

/-- The two faults of the model (60_exceptions R279). The block itself reports neither. -/
inductive Fault where
  /-- Raised by an engine MemRead (20_memory R64) or an idle host read (10_state R34) that covers an unwritten byte of
  BUF. Safe: the chip returns some value and the model names none. -/
  | uninitRead
  /-- Raised by a host access of a wrong width or alignment or outside the window (20_memory R62, R63, R68). Safe: what
  the chip or the platform does is unknown and the model names nothing. -/
  | badHostAccess
  deriving DecidableEq, Repr

/-- Why a command has no meaning. -/
inductive Refusal where
  /-- Raised by `exec` for a command whose meaning is not written yet. Safe. No arm raises it. -/
  | notModelled (mnemonic : String)
  deriving DecidableEq, Repr

/-- The eight argument registers ARG0 to ARG7, `x[0]` to `x[7]` (10_state R21). -/
structure ArgFile where
  x0 : Word
  x1 : Word
  x2 : Word
  x3 : Word
  x4 : Word
  x5 : Word
  x6 : Word
  x7 : Word
  deriving DecidableEq, Repr

/-- LATCH: the copy of the command word and its operands that the engine executes (10_state R31). -/
structure Latch where
  cmd : Word
  arg : ArgFile
  deriving DecidableEq, Repr

/-- BUF (10_state R33, R34): the written bytes as (offset, byte) pairs, offsets strictly rising. A byte that is not
listed is unwritten. -/
abbrev Memory := List Host.Cell

/-- The host agent: the MODEL's own fields (notes/assumptions/4.md), not state of the block. -/
structure HostAgent where
  /-- the host program being performed (30_encoding R103) -/
  prog : List HostOp
  /-- the host's place in it -/
  pc : Nat
  /-- the last STATUS value that a `wait` read, which `b.err` tests (30_encoding R105) -/
  lastStatus : Word
  /-- what the host's reads answered, newest first -/
  replies : List Reply
  deriving DecidableEq, Repr

/-- The state of the block (10_state R20 to R37) and, last, the model's own fields: the host agent, the order of the
agents' turns (notes/assumptions/3.md) and the count of free bytes drawn (notes/assumptions/5.md). -/
structure State where
  /-- BUFSZ: the parameter BUF_SIZE (10_state R25, R36) -/
  bufsz : Word
  /-- CMD (10_state R26) -/
  cmd : Word
  /-- STATUS.BUSY, bit 0, and the engine's IDLE/BUSY state (10_state R27, R30) -/
  busy : Bool
  /-- STATUS.DONE, bit 1 (10_state R27) -/
  done : Bool
  /-- STATUS.BUSYWR, bit 2 (10_state R27) -/
  busywr : Bool
  /-- STATUS.ERRCODE, bits 15:8 (10_state R27) -/
  errcode : ErrCode
  /-- IRQ_EN.DONE_IE, bit 0 (10_state R28) -/
  doneIe : Bool
  /-- ARG0 to ARG7 (10_state R21) -/
  args : ArgFile
  /-- LATCH (10_state R31) -/
  latch : Latch
  /-- BUF (10_state R33) -/
  mem : Memory
  /-- the host agent (model's own) -/
  host : HostAgent
  /-- whose turns come next (model's own) -/
  turns : List Turn
  /-- how many free bytes were drawn (model's own) -/
  draws : Nat
  deriving DecidableEq, Repr

/-- What one step or one command answers. -/
abbrev Result := Host.Outcome State Fault Refusal

/-- ARG0 to ARG7 all zero (10_state R21). -/
def ArgFile.zero : ArgFile := ⟨0#32, 0#32, 0#32, 0#32, 0#32, 0#32, 0#32, 0#32⟩

/-- A host that has nothing to do (model's own; notes/assumptions/4.md). -/
def HostAgent.idle : HostAgent := { prog := [], pc := 0, lastStatus := 0#32, replies := [] }

/-- The complete reset state of a block whose BUF_SIZE is `bufsz` (10_state R37). LATCH is unspecified there: the
zeros are a DESIGN CHOICE (notes/assumptions/2.md). -/
def State.resetOf (bufsz : Word) : State :=
  { bufsz := bufsz
    cmd := 0#32
    busy := false
    done := false
    busywr := false
    errcode := .ok
    doneIe := false
    args := ArgFile.zero
    latch := { cmd := 0#32, arg := ArgFile.zero }
    mem := []
    host := HostAgent.idle
    turns := []
    draws := 0 }

/-- The block right after reset, at the BUF_SIZE of the spec's examples (notes/assumptions/1.md). -/
def State.reset : State := State.resetOf Config.bufSizeOfReset

end Sys2Proof.Machine
end

