-- ==== Sys2Proof/Machine/Flags.lean ====
section
/-! DEFINITION. STATUS, IRQ_EN and irq: how the flags are read, what a write clears, what completion and issue set
(10_state R27 to R29, 45_control R250, R253, 60_exceptions R265, R268). -/

namespace Sys2Proof.Machine

/-- One bit at a position of a 32-bit register. -/
def bitAt (b : Bool) (n : Nat) : Word := (BitVec.ofBool b).setWidth 32 <<< n

/-- STATUS as a read answers it: BUSY, DONE, BUSYWR at bits 0 to 2, ERRCODE at bits 15:8, every other bit 0
(10_state R27, R23). -/
def statusWord (s : State) : Word :=
  bitAt s.busy 0 ||| bitAt s.done 1 ||| bitAt s.busywr 2 ||| s.errcode.number.setWidth 32 <<< 8

/-- IRQ_EN as a read answers it: DONE_IE at bit 0, every other bit 0 (10_state R28). -/
def irqEnWord (s : State) : Word := bitAt s.doneIe 0

/-- The output level `irq = STATUS.DONE & IRQ_EN.DONE_IE` (10_state R29, 60_exceptions R265). -/
def State.irq (s : State) : Bool := s.done && s.doneIe

/-- A host write of `v` to STATUS: bit 1 clears DONE, bit 2 clears BUSYWR, every other bit is ignored (10_state R27).
With bit 1 set this is the "return" from a completion (60_exceptions R268). -/
def writeStatus (v : Word) (s : State) : State :=
  { s with done := s.done && !v.getLsbD 1, busywr := s.busywr && !v.getLsbD 2 }

/-- A host write of `v` to IRQ_EN: bit 0 is DONE_IE, the rest is ignored (10_state R28). -/
def writeIrqEn (v : Word) (s : State) : State := { s with doneIe := v.getLsbD 0 }

/-- A host write that is dropped because BUSY = 1 (20_memory R66, 60_exceptions R270). -/
def dropWrite (s : State) : State := { s with busywr := true }

/-- `Complete(code)` (45_control R253, 60_exceptions R267): the block's only trap-like event. It saves no state,
changes no mode and transfers no control. -/
def complete (code : ErrCode) (s : State) : State := { s with busy := false, done := true, errcode := code }

/-- `HostWriteCMD(w)` while BUSY = 0 (45_control R250): CMD and LATCH take the word and the operands, BUSY is set, DONE
and ERRCODE are cleared. Issue does not decode. -/
def issue (w : Word) (s : State) : State :=
  { s with cmd := w, latch := { cmd := w, arg := s.args }, busy := true, done := false, errcode := .ok }

end Sys2Proof.Machine
end

