-- ==== Sys2Proof/Machine/Operands.lean ====
section
/-! DEFINITION. Operand ranges, the checks LENGTH, RANGE and OVERLAP, and the operand table (20_memory R69 to R71,
30_encoding R96, R97, 60_exceptions R262). -/

namespace Sys2Proof.Machine

/-- An operand range: BUF bytes [off, off + len) (00_scope R14, 20_memory R69). Naturals, so no sum wraps (R70). -/
structure Range where
  off : Nat
  len : Nat
  deriving DecidableEq, Repr

/-- In bounds iff `o + n <= BUF_SIZE` (20_memory R70). -/
def Range.inBounds (size : Nat) (r : Range) : Bool := decide (r.off + r.len ≤ size)

/-- Overlap of two ranges (20_memory R71): none with an empty range. -/
def Range.overlaps (r q : Range) : Bool :=
  decide (0 < r.len) && decide (0 < q.len) && decide (r.off < q.off + q.len) && decide (q.off < r.off + r.len)

/-- Whether a byte offset lies in a range. -/
def Range.contains (r : Range) (a : Nat) : Bool := decide (r.off ≤ a) && decide (a < r.off + r.len)

/-- What one command's row of 30_encoding R97 says of its operands. -/
structure Operands where
  /-- output ranges -/
  outs : List Range
  /-- input ranges that no output may overlap -/
  ins : List Range
  /-- the data input that an output may equal exactly, of an in-place-capable command -/
  inPlace : List Range
  /-- L = x[2], where the row has a length -/
  len : Nat
  /-- min L -/
  minLen : Nat
  deriving DecidableEq, Repr

/-- An output against another output (20_memory R71: "checks them against each other the same way"). -/
def outsClash : List Range → Bool
  | [] => false
  | r :: rs => rs.any r.overlaps || outsClash rs

/-- One output against the inputs: an overlap with an input, or with the data input other than exact equality
(20_memory R71). -/
def outClashes (o : Operands) (r : Range) : Bool :=
  o.ins.any r.overlaps || o.inPlace.any (fun q => r.overlaps q && !(r == q))

/-- Check 5, LENGTH: L below the opcode's minimum (60_exceptions R262). -/
def lengthFails (o : Operands) : Bool := decide (o.len < o.minLen)

/-- Check 6, RANGE: any of the ranges is not in bounds (60_exceptions R262). -/
def rangeFails (size : Nat) (o : Operands) : Bool :=
  !(o.outs ++ o.ins ++ o.inPlace).all (Range.inBounds size)

/-- Check 7, OVERLAP (60_exceptions R262). -/
def overlapFails (o : Operands) : Bool := o.outs.any (outClashes o) || outsClash o.outs

/-- `CheckArgs(d, a)`: steps 5 to 7 of 60_exceptions R262 in their fixed order. -/
def checkArgs (size : Nat) (o : Operands) : ErrCode :=
  if lengthFails o then .length
  else if rangeFails size o then .range
  else if overlapFails o then .overlap
  else .ok

/-- A row with no minimum length and no in-place data input. -/
def plainOperands (outs ins : List Range) : Operands :=
  { outs := outs, ins := ins, inPlace := [], len := 0, minLen := 0 }

/-! The rows of 30_encoding R97, one definition a row; `a` is the latched ARG file. -/

/-- NOP: every ARG register is ignored. -/
def nopOperands : Operands := plainOperands [] []

/-- CLAMP. -/
def clampOperands (a : ArgFile) : Operands := plainOperands [⟨a.x0.toNat, 32⟩] [⟨a.x2.toNat, 32⟩]

/-- X25519_RAW. -/
def x25519RawOperands (a : ArgFile) : Operands :=
  plainOperands [⟨a.x0.toNat, 32⟩] [⟨a.x1.toNat, 32⟩, ⟨a.x2.toNat, 32⟩]

/-- X25519. -/
def x25519Operands (a : ArgFile) : Operands :=
  plainOperands [⟨a.x0.toNat, 32⟩] [⟨a.x1.toNat, 32⟩, ⟨a.x2.toNat, 32⟩]

/-- X25519_BASE: x[1] is ignored. -/
def x25519BaseOperands (a : ArgFile) : Operands := plainOperands [⟨a.x0.toNat, 32⟩] [⟨a.x2.toNat, 32⟩]

/-- The inputs of the three core commands: key, inp, and the constant only if A = 1 (42_salsa20 R180 to R182). -/
def coreInputs (alt : Bool) (a : ArgFile) : List Range :=
  [⟨a.x3.toNat, 32⟩, ⟨a.x4.toNat, 16⟩] ++ if alt then [⟨a.x7.toNat, 16⟩] else []

/-- SALSA20_ROUNDS. -/
def salsa20RoundsOperands (alt : Bool) (a : ArgFile) : Operands :=
  plainOperands [⟨a.x0.toNat, 64⟩] (coreInputs alt a)

/-- SALSA20_BLOCK. -/
def salsa20BlockOperands (alt : Bool) (a : ArgFile) : Operands :=
  plainOperands [⟨a.x0.toNat, 64⟩] (coreInputs alt a)

/-- HSALSA20. -/
def hsalsa20Operands (alt : Bool) (a : ArgFile) : Operands :=
  plainOperands [⟨a.x0.toNat, 32⟩] (coreInputs alt a)

/-- SALSA20_XOR: dst may equal src exactly. -/
def salsa20XorOperands (a : ArgFile) : Operands :=
  { outs := [⟨a.x0.toNat, a.x2.toNat⟩]
    ins := [⟨a.x3.toNat, 32⟩, ⟨a.x4.toNat, 8⟩]
    inPlace := [⟨a.x1.toNat, a.x2.toNat⟩]
    len := a.x2.toNat
    minLen := 0 }

/-- XSALSA20_XOR: dst may equal src exactly. -/
def xsalsa20XorOperands (a : ArgFile) : Operands :=
  { outs := [⟨a.x0.toNat, a.x2.toNat⟩]
    ins := [⟨a.x3.toNat, 32⟩, ⟨a.x4.toNat, 24⟩]
    inPlace := [⟨a.x1.toNat, a.x2.toNat⟩]
    len := a.x2.toNat
    minLen := 0 }

/-- SALSA20_STREAM. -/
def salsa20StreamOperands (a : ArgFile) : Operands :=
  { outs := [⟨a.x0.toNat, a.x2.toNat⟩]
    ins := [⟨a.x3.toNat, 32⟩, ⟨a.x4.toNat, 8⟩]
    inPlace := []
    len := a.x2.toNat
    minLen := 0 }

/-- XSALSA20_STREAM. -/
def xsalsa20StreamOperands (a : ArgFile) : Operands :=
  { outs := [⟨a.x0.toNat, a.x2.toNat⟩]
    ins := [⟨a.x3.toNat, 32⟩, ⟨a.x4.toNat, 24⟩]
    inPlace := []
    len := a.x2.toNat
    minLen := 0 }

/-- POLY1305. -/
def poly1305Operands (a : ArgFile) : Operands :=
  { outs := [⟨a.x0.toNat, 16⟩]
    ins := [⟨a.x1.toNat, a.x2.toNat⟩, ⟨a.x3.toNat, 32⟩]
    inPlace := []
    len := a.x2.toNat
    minLen := 0 }

/-- POLY1305_VERIFY: the tag is an input and there is no output. -/
def poly1305VerifyOperands (a : ArgFile) : Operands :=
  { outs := []
    ins := [⟨a.x0.toNat, 16⟩, ⟨a.x1.toNat, a.x2.toNat⟩, ⟨a.x3.toNat, 32⟩]
    inPlace := []
    len := a.x2.toNat
    minLen := 0 }

/-- BOX_BEFORENM. -/
def boxBeforenmOperands (a : ArgFile) : Operands :=
  plainOperands [⟨a.x0.toNat, 32⟩] [⟨a.x1.toNat, 32⟩, ⟨a.x2.toNat, 32⟩]

/-- BOX_AFTERNM: L at least 32, dst may equal src exactly. -/
def boxAfternmOperands (a : ArgFile) : Operands :=
  { outs := [⟨a.x0.toNat, a.x2.toNat⟩]
    ins := [⟨a.x3.toNat, 32⟩, ⟨a.x4.toNat, 24⟩]
    inPlace := [⟨a.x1.toNat, a.x2.toNat⟩]
    len := a.x2.toNat
    minLen := 32 }

/-- BOX_OPEN_AFTERNM: L at least 32, dst may equal src exactly. -/
def boxOpenAfternmOperands (a : ArgFile) : Operands :=
  { outs := [⟨a.x0.toNat, a.x2.toNat⟩]
    ins := [⟨a.x3.toNat, 32⟩, ⟨a.x4.toNat, 24⟩]
    inPlace := [⟨a.x1.toNat, a.x2.toNat⟩]
    len := a.x2.toNat
    minLen := 32 }

/-- BOX_ENCRYPT_SYM: dst is 16 bytes longer than src. -/
def boxEncryptSymOperands (a : ArgFile) : Operands :=
  { outs := [⟨a.x0.toNat, a.x2.toNat + 16⟩]
    ins := [⟨a.x1.toNat, a.x2.toNat⟩, ⟨a.x3.toNat, 32⟩, ⟨a.x4.toNat, 24⟩]
    inPlace := []
    len := a.x2.toNat
    minLen := 0 }

/-- BOX_DECRYPT_SYM: L at least 16, dst is 16 bytes shorter than src. -/
def boxDecryptSymOperands (a : ArgFile) : Operands :=
  { outs := [⟨a.x0.toNat, a.x2.toNat - 16⟩]
    ins := [⟨a.x1.toNat, a.x2.toNat⟩, ⟨a.x3.toNat, 32⟩, ⟨a.x4.toNat, 24⟩]
    inPlace := []
    len := a.x2.toNat
    minLen := 16 }

/-- The whole table of 30_encoding R97. -/
def operandsOf (i : Instr) (a : ArgFile) : Operands :=
  match i with
  | .nop => nopOperands
  | .clamp => clampOperands a
  | .x25519Raw => x25519RawOperands a
  | .x25519 => x25519Operands a
  | .x25519Base => x25519BaseOperands a
  | .salsa20Rounds alt => salsa20RoundsOperands alt a
  | .salsa20Block alt => salsa20BlockOperands alt a
  | .hsalsa20 alt => hsalsa20Operands alt a
  | .salsa20Xor _ => salsa20XorOperands a
  | .xsalsa20Xor _ => xsalsa20XorOperands a
  | .salsa20Stream _ => salsa20StreamOperands a
  | .xsalsa20Stream _ => xsalsa20StreamOperands a
  | .poly1305 => poly1305Operands a
  | .poly1305Verify => poly1305VerifyOperands a
  | .boxBeforenm => boxBeforenmOperands a
  | .boxAfternm => boxAfternmOperands a
  | .boxOpenAfternm => boxOpenAfternmOperands a
  | .boxEncryptSym => boxEncryptSymOperands a
  | .boxDecryptSym => boxDecryptSymOperands a

end Sys2Proof.Machine
end

