-- ==== Sys2Proof/Machine/Ops.lean ====
section
/-! DEFINITION. The named operations over BUF and the registers that every command shares: MemRead and MemWrite
(20_memory R64, R65), the argument check (45_control R251), free bytes, completion of an erring or successful command
(45_control R252 to R254), and reset (70_reset_and_hazards R290). -/

namespace Sys2Proof.Machine

/-! ## BUF -/

/-- What a byte that nothing has written reads as: no value (10_state R34; notes/assumptions/6.md, safe). -/
def Memory.unlisted : Option Byte := none

/-- The byte at an offset; none where it is unwritten (10_state R34). -/
def Memory.read : Memory → Nat → Option Byte
  | [], _ => Memory.unlisted
  | (k, b) :: m, a => if k = a then some b else Memory.read m a

/-- Writing one byte keeps the offsets strictly rising (20_memory R65: the byte becomes written). -/
def Memory.write : Memory → Nat → Byte → Memory
  | [], a, v => [(a, v)]
  | (k, b) :: m, a, v =>
    if a < k then (a, v) :: (k, b) :: m
    else if a = k then (a, v) :: m
    else (k, b) :: Memory.write m a v

/-- `n` bytes from an offset; none if any of them is unwritten (20_memory R64). -/
def Memory.readBytes (m : Memory) (a : Nat) : Nat → Option Bytes
  | 0 => some []
  | n + 1 =>
    match Memory.read m a, Memory.readBytes m (a + 1) n with
    | some b, some bs => some (b :: bs)
    | _, _ => none

/-- A byte string from an offset on (20_memory R65). -/
def Memory.writeBytes (m : Memory) (a : Nat) : Bytes → Memory
  | [] => m
  | b :: bs => Memory.writeBytes (Memory.write m a b) (a + 1) bs

/-- Every listed offset is above `a`, and they rise strictly. -/
def Memory.risesFrom : Nat → Memory → Bool
  | _, [] => true
  | a, (k, _) :: m => decide (a ≤ k) && Memory.risesFrom (k + 1) m

/-- The canonical form: offsets strictly rising. No entry can equal what an unlisted offset reads as, which is no
value. -/
def Memory.wf (m : Memory) : Bool := Memory.risesFrom 0 m

/-- Every listed offset is one of BUF (10_state R33). -/
def Memory.inside (size : Nat) (m : Memory) : Bool := m.all (fun c => decide (c.1 < size))

/-! ## Registers -/

/-- The parameter BUF_SIZE, read from BUFSZ (10_state R25, R36). -/
def State.bufSize (s : State) : Nat := s.bufsz.toNat

/-- `x[i]` (10_state R21). -/
def ArgFile.get (a : ArgFile) (i : Fin 8) : Word :=
  match i with
  | 0 => a.x0
  | 1 => a.x1
  | 2 => a.x2
  | 3 => a.x3
  | 4 => a.x4
  | 5 => a.x5
  | 6 => a.x6
  | 7 => a.x7

/-- `x[i] <- v` (10_state R21). -/
def ArgFile.set (a : ArgFile) (i : Fin 8) (v : Word) : ArgFile :=
  match i with
  | 0 => { a with x0 := v }
  | 1 => { a with x1 := v }
  | 2 => { a with x2 := v }
  | 3 => { a with x3 := v }
  | 4 => { a with x4 := v }
  | 5 => { a with x5 := v }
  | 6 => { a with x6 := v }
  | 7 => { a with x7 := v }

/-- The host's write of an argument register while BUSY = 0 (10_state R21). -/
def setArg (i : Fin 8) (v : Word) (s : State) : State := { s with args := s.args.set i v }

/-! ## Free bytes -/

/-- The `n` free bytes from the `d`-th on (20_memory R65 `ANY`, R67; notes/assumptions/5.md). -/
def freeBytes (d : Nat) : Nat → Bytes
  | 0 => []
  | n + 1 => Config.freeByte d :: freeBytes (d + 1) n

/-- Count `n` free bytes as drawn, so that a later draw is a fresh one. -/
def drawn (n : Nat) (s : State) : State := { s with draws := s.draws + n }

/-! ## The phases of a command (45_control R252) -/

/-- `CheckArgs`: go on only if it answers OK, else complete with the code it answers (45_control R251). -/
def checked (o : Operands) (s : State) (k : Result) : Result :=
  match checkArgs s.bufSize o with
  | .ok => k
  | code => .next (complete code s)

/-- `MemRead(addr, n)`: go on with the bytes, or the fault UninitRead (20_memory R64). -/
def memRead (s : State) (a : Word) (n : Nat) (k : Bytes → Result) : Result :=
  match Memory.readBytes s.mem a.toNat n with
  | some B => k B
  | none => .fault .uninitRead

/-- `MemWrite(addr, n, v)` with n the length of v (20_memory R65). -/
def memWrite (a : Nat) (v : Bytes) (s : State) : State := { s with mem := Memory.writeBytes s.mem a v }

/-- The command returns OK after its MemWrites (45_control R252, R253). -/
def succeed (s : State) : Result := .next (complete .ok s)

/-- `raise CmdError(code)`: the command completes with the code and has written nothing (60_exceptions R264). -/
def raiseErr (code : ErrCode) (s : State) : Result := .next (complete code s)

/-! ## Reset -/

/-- The reset input (70_reset_and_hazards R290, R291): the complete reset state of 10_state R37 for this block's
BUF_SIZE. The model's own fields (host, turns, draws) are not the block's and stay (notes/assumptions/12.md). -/
def blockReset (s : State) : State :=
  { State.resetOf s.bufsz with host := s.host, turns := s.turns, draws := s.draws }

end Sys2Proof.Machine
end

