-- ==== Sys2Proof/Machine/Poly1305.lean ====
section
/-! DEFINITION. The function unit poly1305_mac_engine and the commands POLY1305 and POLY1305_VERIFY
(43_poly1305 R200 to R208). -/

namespace Sys2Proof.Machine

/-- P1305 = 2^130 - 5 (00_scope R7). -/
def polyP : Nat := 2 ^ 130 - 5

/-- The clamp mask of r (43_poly1305 R200). -/
def polyMask : Nat := 0x0ffffffc0ffffffc0ffffffc0fffffff

/-- `r`, the clamped first half of the one-time key (43_poly1305 R200). -/
def polyR (K : Bytes) : Nat := le (slice K 0 16) &&& polyMask

/-- `s`, the second half of the one-time key (43_poly1305 R200). -/
def polyS (K : Bytes) : Nat := le (slice K 16 32)

/-- `n(B) = le(B) + 2^(8j)` for a block of j bytes: a 1 bit immediately above the bytes of every block
(43_poly1305 R201; 90_conflicts C5). -/
def polyBlock (B : Bytes) : Nat := le B + 2 ^ (8 * B.length)

/-- The accumulator over q blocks of at most 16 bytes, reduced after each (43_poly1305 R201, R202). -/
def polyAccumulate (r : Nat) : Nat → Bytes → Nat → Nat
  | 0, _, h => h
  | q + 1, M, h => polyAccumulate r q (M.drop 16) ((h + polyBlock (M.take 16)) * r % polyP)

/-- `poly1305_tag(K, M)` (43_poly1305 R202 to R204). -/
def poly1305Tag (K M : Bytes) : Bytes :=
  leN 16 ((polyAccumulate (polyR K) (ceilDiv M.length 16) M 0 + polyS K) % 2 ^ 128)

/-- The OR over all bytes of `T[i] ^ U[i]`, no early exit (43_poly1305 R206). -/
def tagDifference (T U : Bytes) : Byte := (xorBytes T U).foldl (fun d x => d ||| x) 0#8

/-- Equality of two 16-byte tags by the compare of 43_poly1305 R206 (`ct_equal16`, 44_box R222). -/
def tagsEqual (T U : Bytes) : Bool := tagDifference T U == 0#8

/-- POLY1305 (43_poly1305 R205). -/
def execPoly1305 (s : State) : Result :=
  checked (poly1305Operands s.latch.arg) s <|
  memRead s s.latch.arg.x1 s.latch.arg.x2.toNat fun msg =>
  memRead s s.latch.arg.x3 32 fun key =>
  succeed (memWrite s.latch.arg.x0.toNat (poly1305Tag key msg) s)

/-- POLY1305_VERIFY (43_poly1305 R206): nothing is written in either case. -/
def execPoly1305Verify (s : State) : Result :=
  checked (poly1305VerifyOperands s.latch.arg) s <|
  memRead s s.latch.arg.x0 16 fun tag =>
  memRead s s.latch.arg.x1 s.latch.arg.x2.toNat fun msg =>
  memRead s s.latch.arg.x3 32 fun key =>
  if tagsEqual tag (poly1305Tag key msg) then succeed s else raiseErr .auth s

end Sys2Proof.Machine
end

