-- ==== Sys2Proof/Machine/Salsa20.lean ====
section
/-! DEFINITION. The function units salsa20_core_permutation, hsalsa20_kdf and xsalsa20_keystream, and their seven
commands (42_salsa20 R170 to R188). -/

namespace Sys2Proof.Machine

/-- The 16-word Salsa20 state (42_salsa20 R170). It is not architectural (10_state R32). -/
abbrev SalsaState := Vector Word 16

/-- SIGMA, the 16 ASCII bytes of "expand 32-byte k" (42_salsa20 R179). -/
def sigma : Bytes :=
  [0x65#8, 0x78#8, 0x70#8, 0x61#8, 0x6e#8, 0x64#8, 0x20#8, 0x33#8,
   0x32#8, 0x2d#8, 0x62#8, 0x79#8, 0x74#8, 0x65#8, 0x20#8, 0x6b#8]

/-- `w(B, j) = le(B[4j : 4j+4])` (42_salsa20 R170). -/
def wordAt (B : Bytes) (j : Nat) : Word := BitVec.ofNat 32 (le (slice B (4 * j) (4 * j + 4)))

/-- `salsa_load(c, k, inp)` (42_salsa20 R170). -/
def salsaLoad (c k inp : Bytes) : SalsaState :=
  #v[wordAt c 0, wordAt k 0, wordAt k 1, wordAt k 2,
     wordAt k 3, wordAt c 1, wordAt inp 0, wordAt inp 1,
     wordAt inp 2, wordAt inp 3, wordAt c 2, wordAt k 4,
     wordAt k 5, wordAt k 6, wordAt k 7, wordAt c 3]

/-- `quarterround(y, a, b, c, d)`: each line uses the value the line before it wrote (42_salsa20 R171). -/
def quarterround (y : SalsaState) (a b c d : Fin 16) : SalsaState :=
  let y := y.set b (y[b] ^^^ rotl32 (y[a] + y[d]) 7)
  let y := y.set c (y[c] ^^^ rotl32 (y[b] + y[a]) 9)
  let y := y.set d (y[d] ^^^ rotl32 (y[c] + y[b]) 13)
  y.set a (y[a] ^^^ rotl32 (y[d] + y[c]) 18)

/-- `columnround(y)` (42_salsa20 R172). -/
def columnround (y : SalsaState) : SalsaState :=
  let y := quarterround y 0 4 8 12
  let y := quarterround y 5 9 13 1
  let y := quarterround y 10 14 2 6
  quarterround y 15 3 7 11

/-- `rowround(y)` (42_salsa20 R173). -/
def rowround (y : SalsaState) : SalsaState :=
  let y := quarterround y 0 1 2 3
  let y := quarterround y 5 6 7 4
  let y := quarterround y 10 11 8 9
  quarterround y 15 12 13 14

/-- `n` double rounds (42_salsa20 R174). -/
def doubleRounds : Nat → SalsaState → SalsaState
  | 0, y => y
  | n + 1, y => doubleRounds n (rowround (columnround y))

/-- `salsa_rounds(s)`: 10 double rounds (42_salsa20 R174; 90_conflicts C4). -/
def salsaRounds (y : SalsaState) : SalsaState := doubleRounds 10 y

/-- The words of a state, each little-endian, in order (42_salsa20 R175, R180). -/
def stateBytes (y : SalsaState) : Bytes := y.toList.flatMap wordBytes

/-- Word-by-word sum mod 2^32 (42_salsa20 R175). -/
def stateAdd (y z : SalsaState) : SalsaState := y.zipWith (fun a b => a + b) z

/-- SALSA20_ROUNDS' 64 bytes: the permutation with no feed-forward (42_salsa20 R180). -/
def roundsBytes (c k inp : Bytes) : Bytes := stateBytes (salsaRounds (salsaLoad c k inp))

/-- `salsa_block(c, k, inp)`, 64 bytes (42_salsa20 R175). -/
def salsaBlock (c k inp : Bytes) : Bytes :=
  stateBytes (stateAdd (salsaRounds (salsaLoad c k inp)) (salsaLoad c k inp))

/-- `hsalsa20(c, k, inp)`: words 0, 5, 10, 15, 6, 7, 8, 9, with no addition (42_salsa20 R176). -/
def hsalsa20 (c k inp : Bytes) : Bytes :=
  let y := salsaRounds (salsaLoad c k inp)
  [y[0], y[5], y[10], y[15], y[6], y[7], y[8], y[9]].flatMap wordBytes

/-- `inc8(ctr)`: byte-wise little-endian increment, the carry out of the last byte dropped (42_salsa20 R177, R188). -/
def inc8 : Bytes → Bytes
  | [] => []
  | b :: bs => if b + 1#8 = 0#8 then 0#8 :: inc8 bs else (b + 1#8) :: bs

/-- `n` blocks of keystream from a counter on (42_salsa20 R177). -/
def streamBlocks (k n8 : Bytes) : Nat → Bytes → Bytes
  | 0, _ => []
  | n + 1, ctr => salsaBlock sigma k (n8 ++ ctr) ++ streamBlocks k n8 n (inc8 ctr)

/-- `salsa20_stream(k, n8, L)`: the first L bytes of the keystream, initial counter 0 (42_salsa20 R177). -/
def salsa20Stream (k n8 : Bytes) (L : Nat) : Bytes := (streamBlocks k n8 (ceilDiv L 64) (zeros 8)).take L

/-- `xsalsa20_stream(k, n24, L)` (42_salsa20 R178). -/
def xsalsa20Stream (k n24 : Bytes) (L : Nat) : Bytes :=
  salsa20Stream (hsalsa20 sigma k (slice n24 0 16)) (slice n24 16 24) L

/-- The constant operand: SIGMA, or the 16 bytes at x[7] when A = 1 (42_salsa20 R179). -/
def readConstant (alt : Bool) (s : State) (k : Bytes → Result) : Result :=
  if alt then memRead s s.latch.arg.x7 16 k else k sigma

/-- SALSA20_ROUNDS (42_salsa20 R180). -/
def execSalsa20Rounds (alt : Bool) (s : State) : Result :=
  checked (salsa20RoundsOperands alt s.latch.arg) s <|
  memRead s s.latch.arg.x3 32 fun key =>
  memRead s s.latch.arg.x4 16 fun inp =>
  readConstant alt s fun c =>
  succeed (memWrite s.latch.arg.x0.toNat (roundsBytes c key inp) s)

/-- SALSA20_BLOCK (42_salsa20 R181). -/
def execSalsa20Block (alt : Bool) (s : State) : Result :=
  checked (salsa20BlockOperands alt s.latch.arg) s <|
  memRead s s.latch.arg.x3 32 fun key =>
  memRead s s.latch.arg.x4 16 fun inp =>
  readConstant alt s fun c =>
  succeed (memWrite s.latch.arg.x0.toNat (salsaBlock c key inp) s)

/-- HSALSA20 (42_salsa20 R182). -/
def execHsalsa20 (alt : Bool) (s : State) : Result :=
  checked (hsalsa20Operands alt s.latch.arg) s <|
  memRead s s.latch.arg.x3 32 fun key =>
  memRead s s.latch.arg.x4 16 fun inp =>
  readConstant alt s fun c =>
  succeed (memWrite s.latch.arg.x0.toNat (hsalsa20 c key inp) s)

/-- SALSA20_XOR (42_salsa20 R184); I = 1 is the unsupported path, before any other check (R187). -/
def execSalsa20Xor (ic : Bool) (s : State) : Result :=
  if ic then raiseErr .unsupported s else
  checked (salsa20XorOperands s.latch.arg) s <|
  memRead s s.latch.arg.x1 s.latch.arg.x2.toNat fun msg =>
  memRead s s.latch.arg.x3 32 fun key =>
  memRead s s.latch.arg.x4 8 fun n =>
  succeed (memWrite s.latch.arg.x0.toNat (xorBytes msg (salsa20Stream key n s.latch.arg.x2.toNat)) s)

/-- XSALSA20_XOR (42_salsa20 R186, R187). -/
def execXsalsa20Xor (ic : Bool) (s : State) : Result :=
  if ic then raiseErr .unsupported s else
  checked (xsalsa20XorOperands s.latch.arg) s <|
  memRead s s.latch.arg.x1 s.latch.arg.x2.toNat fun msg =>
  memRead s s.latch.arg.x3 32 fun key =>
  memRead s s.latch.arg.x4 24 fun n =>
  succeed (memWrite s.latch.arg.x0.toNat (xorBytes msg (xsalsa20Stream key n s.latch.arg.x2.toNat)) s)

/-- SALSA20_STREAM (42_salsa20 R183, R187). -/
def execSalsa20Stream (ic : Bool) (s : State) : Result :=
  if ic then raiseErr .unsupported s else
  checked (salsa20StreamOperands s.latch.arg) s <|
  memRead s s.latch.arg.x3 32 fun key =>
  memRead s s.latch.arg.x4 8 fun n =>
  succeed (memWrite s.latch.arg.x0.toNat (salsa20Stream key n s.latch.arg.x2.toNat) s)

/-- XSALSA20_STREAM (42_salsa20 R185, R187). -/
def execXsalsa20Stream (ic : Bool) (s : State) : Result :=
  if ic then raiseErr .unsupported s else
  checked (xsalsa20StreamOperands s.latch.arg) s <|
  memRead s s.latch.arg.x3 32 fun key =>
  memRead s s.latch.arg.x4 24 fun n =>
  succeed (memWrite s.latch.arg.x0.toNat (xsalsa20Stream key n s.latch.arg.x2.toNat) s)

end Sys2Proof.Machine
end

