-- ==== Sys2Proof/Machine/Field.lean ====
section
/-! DEFINITION. Field arithmetic modulo p = 2^255 - 19 as exact arithmetic on naturals (40_field R130 to R140). -/

namespace Sys2Proof.Machine

/-- The field prime (00_scope R7, 40_field R130). -/
def fieldP : Nat := 2 ^ 255 - 19

/-- `fdecode(B)`: bit 255 is dropped, and a value in [p, 2^255) is reduced (40_field R131). -/
def fdecode (B : Bytes) : Nat := le B % 2 ^ 255 % fieldP

/-- `fencode(v) = le_32(v mod p)` (40_field R132). -/
def fencode (v : Nat) : Bytes := leN 32 (v % fieldP)

/-- `fadd` (40_field R133). -/
def fadd (a b : Nat) : Nat := (a + b) % fieldP

/-- `fsub`: the residue, also when a < b (40_field R134). -/
def fsub (a b : Nat) : Nat := (a + (fieldP - b % fieldP)) % fieldP

/-- `fmul` (40_field R135). -/
def fmul (a b : Nat) : Nat := a * b % fieldP

/-- `fsq` (40_field R136). -/
def fsq (a : Nat) : Nat := a * a % fieldP

/-- `fmul_small` (40_field R137). -/
def fmulSmall (a c : Nat) : Nat := a * c % fieldP

/-- Square and multiply from the low bit up: `acc * b^e mod m` for an exponent e below 2^fuel. -/
def powMod (m : Nat) : Nat → Nat → Nat → Nat → Nat
  | 0, _, _, acc => acc
  | fuel + 1, b, e, acc => powMod m fuel (b * b % m) (e / 2) (if e % 2 = 1 then acc * b % m else acc)

/-- `finv(a) = a^(p-2) mod p` (40_field R138), computed by square and multiply: the chain is not architectural
(90_conflicts C9; notes/assumptions/11.md). -/
def finv (a : Nat) : Nat := powMod fieldP 255 (a % fieldP) (fieldP - 2) 1

end Sys2Proof.Machine
end

