-- ==== Sys2Proof/Machine/X25519.lean ====
section
/-! DEFINITION. The function units curve25519_clamp_scalar and montgomery_ladder_x25519, and the commands CLAMP,
X25519_RAW, X25519 and X25519_BASE (41_x25519 R150 to R161). -/

namespace Sys2Proof.Machine

/-- `clamp(k)` on a 32-byte scalar (41_x25519 R150). -/
def clampScalar (k : Bytes) : Bytes :=
  (k.modify 0 (fun b => b &&& 0xF8#8)).modify 31 (fun b => (b &&& 0x7F#8) ||| 0x40#8)

/-- The working state of the ladder: (X2 : Z2), (X3 : Z3) and the swap bit (41_x25519 R151). It is not architectural
(10_state R32). -/
structure LadderState where
  x2 : Nat
  z2 : Nat
  x3 : Nat
  z3 : Nat
  swap : Bool
  deriving DecidableEq, Repr

/-- `cswap(b, P, Q)` (41_x25519 R153). -/
def cswap (b : Bool) (P Q : Nat) : Nat × Nat := if b then (Q, P) else (P, Q)

/-- Both conditional swaps of an iteration, by the bit `b` (41_x25519 R151, R153). -/
def ladderSwap (b : Bool) (l : LadderState) : LadderState :=
  { l with
    x2 := (cswap b l.x2 l.x3).1
    x3 := (cswap b l.x2 l.x3).2
    z2 := (cswap b l.z2 l.z3).1
    z3 := (cswap b l.z2 l.z3).2 }

/-- The constant (486662 - 2) / 4 (41_x25519 R152). -/
def a24 : Nat := 121665

/-- `ladder_step` (41_x25519 R152); the swap bit is not touched. -/
def ladderStep (x1 : Nat) (l : LadderState) : LadderState :=
  let A := fadd l.x2 l.z2
  let AA := fsq A
  let B := fsub l.x2 l.z2
  let BB := fsq B
  let E := fsub AA BB
  let C := fadd l.x3 l.z3
  let D := fsub l.x3 l.z3
  let DA := fmul D A
  let CB := fmul C B
  { l with
    x3 := fsq (fadd DA CB)
    z3 := fmul x1 (fsq (fsub DA CB))
    x2 := fmul AA BB
    z2 := fmul E (fadd AA (fmulSmall E a24)) }

/-- One pass of the ladder's loop for the scalar bit `kt`: `swap ^ kt`, both swaps, `swap <- kt`, the step
(41_x25519 R151; 90_conflicts C3). -/
def ladderPass (x1 : Nat) (kt : Bool) (l : LadderState) : LadderState :=
  ladderStep x1 { ladderSwap (xor l.swap kt) l with swap := kt }

/-- The passes for bits t - 1 down to 0 of n (41_x25519 R151). -/
def ladderLoop (n x1 : Nat) : Nat → LadderState → LadderState
  | 0, l => l
  | t + 1, l => ladderLoop n x1 t (ladderPass x1 (n.testBit t) l)

/-- `ladder(n, x1)`: bits 254 down to 0, the final swap, and `X2 / Z2` (41_x25519 R151, R154). -/
def ladder (n x1 : Nat) : Nat :=
  let l := ladderLoop n x1 255 { x2 := 1, z2 := 0, x3 := x1, z3 := 1, swap := false }
  let m := ladderSwap l.swap l
  fmul m.x2 (finv m.z2)

/-- The 32 bytes of `ScalarMultiplicationRaw(u, k)` (41_x25519 R156). -/
def x25519RawBytes (u k : Bytes) : Bytes := fencode (ladder (le k) (fdecode u))

/-- Bit 255 of a 32-byte u-coordinate masked (41_x25519 R157). -/
def maskU (u : Bytes) : Bytes := u.modify 31 (fun b => b &&& 0x7F#8)

/-- The 32 bytes of `ScalarMultiplication(u, scalar)` (41_x25519 R157). -/
def x25519Bytes (u k : Bytes) : Bytes := fencode (ladder (le (clampScalar k)) (fdecode (maskU u)))

/-- The base point's u-coordinate (00_scope R7). -/
def basePointU : Nat := 9

/-- The 32 bytes of `ScalarMultiplicationBase(scalar)` (41_x25519 R158). -/
def x25519BaseBytes (k : Bytes) : Bytes := fencode (ladder (le (clampScalar k)) basePointU)

/-- CLAMP (41_x25519 R155). -/
def execClamp (s : State) : Result :=
  checked (clampOperands s.latch.arg) s <|
  memRead s s.latch.arg.x2 32 fun k =>
  succeed (memWrite s.latch.arg.x0.toNat (clampScalar k) s)

/-- X25519_RAW (41_x25519 R156). -/
def execX25519Raw (s : State) : Result :=
  checked (x25519RawOperands s.latch.arg) s <|
  memRead s s.latch.arg.x1 32 fun u =>
  memRead s s.latch.arg.x2 32 fun k =>
  succeed (memWrite s.latch.arg.x0.toNat (x25519RawBytes u k) s)

/-- X25519 (41_x25519 R157). -/
def execX25519 (s : State) : Result :=
  checked (x25519Operands s.latch.arg) s <|
  memRead s s.latch.arg.x1 32 fun u =>
  memRead s s.latch.arg.x2 32 fun k =>
  succeed (memWrite s.latch.arg.x0.toNat (x25519Bytes u k) s)

/-- X25519_BASE (41_x25519 R158). -/
def execX25519Base (s : State) : Result :=
  checked (x25519BaseOperands s.latch.arg) s <|
  memRead s s.latch.arg.x2 32 fun k =>
  succeed (memWrite s.latch.arg.x0.toNat (x25519BaseBytes k) s)

end Sys2Proof.Machine
end

