-- ==== Sys2Proof/Machine/Box.lean ====
section
/-! DEFINITION. The function unit authenticated_box_composer and its five commands (44_box R220 to R231). -/

namespace Sys2Proof.Machine

/-- `box_beforenm(pk, sk)`: HSalsa20 of the X25519 output as key and 16 zero bytes as input (44_box R220;
90_conflicts C8). -/
def boxBeforenm (pk sk : Bytes) : Bytes := hsalsa20 sigma (x25519Bytes pk sk) (zeros 16)

/-- `C`, the XSalsa20 encryption of the whole expanded message (44_box R221). -/
def boxCipher (key n E : Bytes) : Bytes := xorBytes E (xsalsa20Stream key n E.length)

/-- `box_afternm(key, n, E)` with `any16` for its 16 unspecified bytes (44_box R221). The 32-byte lead of E is not
checked (R221, D23). -/
def boxAfternm (any16 key n E : Bytes) : Bytes :=
  let C := boxCipher key n E
  any16 ++ poly1305Tag (slice C 0 32) (C.drop 32) ++ C.drop 32

/-- The subkey `SUB` of box_open_afternm (44_box R222). -/
def boxSubkey (key n : Bytes) : Bytes := hsalsa20 sigma key (slice n 0 16)

/-- The one-time key `PK` of box_open_afternm: 32 bytes of block 0 of the subkey stream (44_box R222, R230). -/
def boxOpenKey (key n : Bytes) : Bytes :=
  slice (salsaBlock sigma (boxSubkey key n) (slice n 16 24 ++ zeros 8)) 0 32

/-- `box_open_afternm(key, n, C)`: none is AUTH_FAIL (44_box R222). -/
def boxOpenAfternm (key n C : Bytes) : Option Bytes :=
  if tagsEqual (poly1305Tag (boxOpenKey key n) (C.drop 32)) (slice C 16 32) then
    some (zeros 32 ++ xorBytes (C.drop 32) ((salsa20Stream (boxSubkey key n) (slice n 16 24) C.length).drop 32))
  else none

/-- The MAC and ciphertext of `EncryptSymmetric`: R[16 : L + 32] of box_afternm on the message behind 32 zero bytes,
so that no unspecified byte is in it (44_box R226). -/
def boxEncryptSym (key n M : Bytes) : Bytes := (boxAfternm (zeros 16) key n (zeros 32 ++ M)).drop 16

/-- The plaintext of `DecryptSymmetric`: R[32 : L + 16] of box_open_afternm on the input behind 16 bytes that are
never read; none is AUTH_FAIL (44_box R227). -/
def boxDecryptSym (key n C : Bytes) : Option Bytes :=
  (boxOpenAfternm key n (zeros 16 ++ C)).map (fun R => R.drop 32)

/-- BOX_BEFORENM (44_box R223). -/
def execBoxBeforenm (s : State) : Result :=
  checked (boxBeforenmOperands s.latch.arg) s <|
  memRead s s.latch.arg.x1 32 fun pk =>
  memRead s s.latch.arg.x2 32 fun sk =>
  succeed (memWrite s.latch.arg.x0.toNat (boxBeforenm pk sk) s)

/-- BOX_AFTERNM (44_box R224): bytes [0:16) of the output are free values (notes/assumptions/5.md), the rest is
R[16 : L] of box_afternm, which does not depend on them. -/
def execBoxAfternm (s : State) : Result :=
  checked (boxAfternmOperands s.latch.arg) s <|
  memRead s s.latch.arg.x1 s.latch.arg.x2.toNat fun E =>
  memRead s s.latch.arg.x3 32 fun key =>
  memRead s s.latch.arg.x4 24 fun n =>
  succeed (drawn 16 (memWrite s.latch.arg.x0.toNat (boxAfternm (freeBytes s.draws 16) key n E) s))

/-- BOX_OPEN_AFTERNM (44_box R225, R228): on AUTH_FAIL there is no MemWrite at all. -/
def execBoxOpenAfternm (s : State) : Result :=
  checked (boxOpenAfternmOperands s.latch.arg) s <|
  memRead s s.latch.arg.x1 s.latch.arg.x2.toNat fun C =>
  memRead s s.latch.arg.x3 32 fun key =>
  memRead s s.latch.arg.x4 24 fun n =>
  match boxOpenAfternm key n C with
  | some R => succeed (memWrite s.latch.arg.x0.toNat R s)
  | none => raiseErr .auth s

/-- BOX_ENCRYPT_SYM (44_box R226). -/
def execBoxEncryptSym (s : State) : Result :=
  checked (boxEncryptSymOperands s.latch.arg) s <|
  memRead s s.latch.arg.x1 s.latch.arg.x2.toNat fun msg =>
  memRead s s.latch.arg.x3 32 fun key =>
  memRead s s.latch.arg.x4 24 fun n =>
  succeed (memWrite s.latch.arg.x0.toNat (boxEncryptSym key n msg) s)

/-- BOX_DECRYPT_SYM (44_box R227, R228). -/
def execBoxDecryptSym (s : State) : Result :=
  checked (boxDecryptSymOperands s.latch.arg) s <|
  memRead s s.latch.arg.x1 s.latch.arg.x2.toNat fun C =>
  memRead s s.latch.arg.x3 32 fun key =>
  memRead s s.latch.arg.x4 24 fun n =>
  match boxDecryptSym key n C with
  | some R => succeed (memWrite s.latch.arg.x0.toNat R s)
  | none => raiseErr .auth s

end Sys2Proof.Machine
end

