-- ==== Sys2Proof/Machine/Control.lean ====
section
/-! DEFINITION. The one shell command, NOP (45_control R255). -/

namespace Sys2Proof.Machine

/-- NOP: no MemRead, no MemWrite, no check (45_control R255). -/
def execNop (s : State) : Result := succeed s

end Sys2Proof.Machine
end

