-- ==== Sys2Proof/Machine/Dispatch.lean ====
section
/-! DEFINITION. The dispatch of a decoded command to its meaning (45_control R252, 30_encoding R98). -/

namespace Sys2Proof.Machine

def exec (i : Instr) (s : State) : Host.Outcome State Fault Refusal :=
  match i with
  | .nop => Sys2Proof.Machine.execNop s
  | .clamp => Sys2Proof.Machine.execClamp s
  | .x25519Raw => Sys2Proof.Machine.execX25519Raw s
  | .x25519 => Sys2Proof.Machine.execX25519 s
  | .x25519Base => Sys2Proof.Machine.execX25519Base s
  | .salsa20Rounds alt => Sys2Proof.Machine.execSalsa20Rounds alt s
  | .salsa20Block alt => Sys2Proof.Machine.execSalsa20Block alt s
  | .hsalsa20 alt => Sys2Proof.Machine.execHsalsa20 alt s
  | .salsa20Xor ic => Sys2Proof.Machine.execSalsa20Xor ic s
  | .xsalsa20Xor ic => Sys2Proof.Machine.execXsalsa20Xor ic s
  | .salsa20Stream ic => Sys2Proof.Machine.execSalsa20Stream ic s
  | .xsalsa20Stream ic => Sys2Proof.Machine.execXsalsa20Stream ic s
  | .poly1305 => Sys2Proof.Machine.execPoly1305 s
  | .poly1305Verify => Sys2Proof.Machine.execPoly1305Verify s
  | .boxBeforenm => Sys2Proof.Machine.execBoxBeforenm s
  | .boxAfternm => Sys2Proof.Machine.execBoxAfternm s
  | .boxOpenAfternm => Sys2Proof.Machine.execBoxOpenAfternm s
  | .boxEncryptSym => Sys2Proof.Machine.execBoxEncryptSym s
  | .boxDecryptSym => Sys2Proof.Machine.execBoxDecryptSym s

end Sys2Proof.Machine
end

