-- ==== Sys2Proof/Machine/HostPort.lean ====
section
/-! DEFINITION. What one host access does: the register map, the BUF window, writes while BUSY, and the operations of a
host program (10_state R20 to R29, 20_memory R61 to R68, 30_encoding R103 to R105). -/

namespace Sys2Proof.Machine

/-- BUF_BASE, the host offset of byte 0 of BUF (00_scope R7, 20_memory R75). -/
def bufBase : Nat := 0x1000

/-- The constant of ID (10_state R22). -/
def idValue : Word := 0x4E41434C#32

/-- The constant of VERSION (10_state R24). -/
def versionValue : Word := 0x00000001#32

/-- The register at a host offset; none at a reserved one (10_state R20, R23). -/
def regAt (h : Nat) : Option RegName :=
  match h with
  | 0x000 => some .id
  | 0x004 => some .version
  | 0x008 => some .bufsz
  | 0x010 => some .cmd
  | 0x014 => some .status
  | 0x018 => some .irqEn
  | 0x020 => some (.arg 0)
  | 0x024 => some (.arg 1)
  | 0x028 => some (.arg 2)
  | 0x02C => some (.arg 3)
  | 0x030 => some (.arg 4)
  | 0x034 => some (.arg 5)
  | 0x038 => some (.arg 6)
  | 0x03C => some (.arg 7)
  | _ => none

/-- What a register read answers (10_state R20 to R28); a reserved offset reads 0 (R23). No read has a side effect
(20_memory R62, R73). -/
def readReg (s : State) : Option RegName → Word
  | some .id => idValue
  | some .version => versionValue
  | some .bufsz => s.bufsz
  | some .cmd => s.cmd
  | some .status => statusWord s
  | some .irqEn => irqEnWord s
  | some (.arg i) => s.args.get i
  | none => 0#32

/-- What a register write does (10_state R20 to R28): a read-only or reserved offset ignores it; STATUS and IRQ_EN take
it always; CMD and the ARGs drop it while BUSY = 1 (20_memory R66); a write to CMD while BUSY = 0 issues (45_control
R250). -/
def writeReg (r : Option RegName) (v : Word) (s : State) : State :=
  match r with
  | some .id => s
  | some .version => s
  | some .bufsz => s
  | some .cmd => if s.busy then dropWrite s else issue v s
  | some .status => writeStatus v s
  | some .irqEn => writeIrqEn v s
  | some (.arg i) => if s.busy then dropWrite s else setArg i v s
  | none => s

/-- The bus answers a host read (model's own record, notes/assumptions/4.md). -/
def answer (r : Reply) (s : State) : State :=
  { s with host := { s.host with replies := r :: s.host.replies } }

/-- The `n` bytes at host offset `h` are all bytes of BUF (20_memory R63, R75). -/
def inBuf (s : State) (h n : Nat) : Bool := decide (bufBase ≤ h) && decide (h + n ≤ bufBase + s.bufSize)

/-- A host read of `n` bytes of BUF at BUF offset `a`: any value while BUSY = 1 (20_memory R67), else the stored bytes,
or UninitRead where one is unwritten (10_state R34). `f` says how the bytes travel. -/
def readBuf (a n : Nat) (f : Bytes → Reply) (s : State) : Result :=
  if s.busy then .next (answer (f (freeBytes s.draws n)) (drawn n s))
  else
    match Memory.readBytes s.mem a n with
    | some B => .next (answer (f B) s)
    | none => .fault .uninitRead

/-- A host write of bytes of BUF at BUF offset `a`: dropped while BUSY = 1 (20_memory R63, R66). -/
def writeBuf (a : Nat) (B : Bytes) (s : State) : Result :=
  if s.busy then .next (dropWrite s) else .next (memWrite a B s)

/-- An 8-bit read travels as its byte (20_memory R63). -/
def byteReply (B : Bytes) : Reply := .byte (BitVec.ofNat 8 (le B))

/-- A 32-bit read travels on little-endian lanes (20_memory R61). -/
def wordReply (B : Bytes) : Reply := .word (laneWord B)

/-- One host access (20_memory R61 to R68). The width, alignment and window rules hold whether BUSY is 0 or 1
(notes/assumptions/7.md). -/
def hostAccess (a : HostAccess) (s : State) : Result :=
  match a with
  | .rd8 h => if inBuf s h 1 then readBuf (h - bufBase) 1 byteReply s else .fault .badHostAccess
  | .wr8 h v => if inBuf s h 1 then writeBuf (h - bufBase) [v] s else .fault .badHostAccess
  | .rd32 h =>
    if h % 4 = 0 then
      if h < bufBase then .next (answer (.word (readReg s (regAt h))) s)
      else if inBuf s h 4 then readBuf (h - bufBase) 4 wordReply s
      else .fault .badHostAccess
    else .fault .badHostAccess
  | .wr32 h v =>
    if h % 4 = 0 then
      if h < bufBase then .next (writeReg (regAt h) v s)
      else if inBuf s h 4 then writeBuf (h - bufBase) (wordBytes v) s
      else .fault .badHostAccess
    else .fault .badHostAccess
  | .otherWidth _ _ => .fault .badHostAccess

/-- The host goes on at a place of its program (model's own). -/
def hostGoto (t : Nat) (s : State) : State := { s with host := { s.host with pc := t } }

/-- The host keeps the STATUS value its `wait` read (30_encoding R105; model's own). -/
def keepStatus (v : Word) (s : State) : State := { s with host := { s.host with lastStatus := v } }

/-- One operation of the host program (30_encoding R103, R105). -/
def hostOp (op : HostOp) (s : State) : Result :=
  match op with
  | .access a => hostAccess a (hostGoto (s.host.pc + 1) s)
  | .wait =>
    let s' := answer (.word (statusWord s)) (keepStatus (statusWord s) s)
    if (statusWord s).getLsbD 0 then .next s' else .next (hostGoto (s.host.pc + 1) s')
  | .jump t => .next (hostGoto t s)
  | .jumpErr t =>
    if s.host.lastStatus.extractLsb' 8 8 = 0#8 then .next (hostGoto (s.host.pc + 1) s)
    else .next (hostGoto t s)

/-- The host's turn: its next operation, or nothing where its program has ended (00_scope R16). -/
def hostStep (s : State) : Result :=
  match s.host.prog[s.host.pc]? with
  | some op => hostOp op s
  | none => .next s

end Sys2Proof.Machine
end

