-- ==== Sys2Proof/Machine/Engine.lean ====
section
/-! DEFINITION. The engine step and the order of the agents (45_control R251, 20_memory R77, 00_scope R15, R16). -/

namespace Sys2Proof.Machine

/-- `EngineStep`: decode the latched word; complete with the decoder's error, or check and execute the command
(45_control R251). -/
def engineStep (s : State) : Result :=
  match decode s.latch.cmd with
  | .error code => raiseErr code s
  | .ok i => exec i s

/-- The turn of one agent. The engine step is enabled iff BUSY = 1 (45_control R251): a turn of an idle engine passes
(notes/assumptions/3.md). -/
def takeTurn (t : Turn) (s : State) : Result :=
  match t with
  | .host => hostStep s
  | .engine => if s.busy then engineStep s else .next s
  | .reset => .next (blockReset s)

/-- The turns that remain to be taken are `ts` (model's own). -/
def setTurns (ts : List Turn) (s : State) : State := { s with turns := ts }

/-- One step of the total order of host accesses and engine steps (20_memory R77). `turns` says whose step it is; where
it says nothing, an enabled engine step is taken (the fairness of 00_scope R16), else the host's. -/
def stepOnce (s : State) : Result :=
  match s.turns with
  | [] => if s.busy then engineStep s else hostStep s
  | t :: ts => takeTurn t (setTurns ts s)

/-- A command word placed where the engine takes its next command from: issued as by a host write to CMD (45_control
R250), with the engine's step next (notes/assumptions/9.md). -/
def placeCommand (w : Word) (s : State) : State := setTurns [] (issue w s)

end Sys2Proof.Machine
end

