-- ==== Sys2Proof/WellFormed.lean ====
section
/-! DEFINITION. Which terms are well formed: commands, host accesses as data, and host programs. -/

namespace Sys2Proof

/-- A command is well formed if its opcode is one that 30_encoding R98 defines and its flags are flags its row
leaves open (R93, R94): what the decoder accepts. Every field of a command is one bit, so every term of `Instr` is. -/
def Instr.wellFormed (i : Instr) : Bool :=
  match decodeOP i.op i.altBit i.icBit with
  | .ok j => i == j
  | .error _ => false

/-- The opcodes of 30_encoding R98 and no other: what a mnemonic of the host notation may name (R104). -/
def definedOP (op : Byte) : Bool :=
  match decodeOP op false false with
  | .ok _ => true
  | .error _ => false

namespace Machine

/-- An access of "another width" has a width that is neither of the two the block supports (20_memory R62, R63). -/
def HostAccess.wellFormed : HostAccess → Bool
  | .otherWidth bits _ => bits != 8 && bits != 32
  | _ => true

/-- The labels a program defines (30_encoding R105). -/
def labelsOf : List HostLine → List Nat
  | [] => []
  | .label l :: p => l :: labelsOf p
  | _ :: p => labelsOf p

/-- One line: a command's mnemonic is one of R98, and a branch names a label the program defines (30_encoding R104, R105). -/
def HostLine.wellFormed (labels : List Nat) : HostLine → Bool
  | .command op _ _ _ => definedOP op
  | .b l => labels.contains l
  | .bErr l => labels.contains l
  | _ => true

/-- No label is defined twice (30_encoding R105). -/
def noRepeats : List Nat → Bool
  | [] => true
  | l :: ls => !ls.contains l && noRepeats ls

/-- A host program is well formed if no label is defined twice and every line is well formed. -/
def programWellFormed (p : List HostLine) : Bool :=
  noRepeats (labelsOf p) && p.all (HostLine.wellFormed (labelsOf p))

end Machine

end Sys2Proof
end

