-- ==== Sys2Proof/Machine/Assembler.lean ====
section
/-! DEFINITION. The host notation and what it expands to (30_encoding R103 to R105). "The block sees only the accesses
they expand to" (R105). -/

namespace Sys2Proof.Machine

/-- The host offset of a register name (10_state R20). -/
def regOffset : RegName → Nat
  | .id => 0x000
  | .version => 0x004
  | .bufsz => 0x008
  | .cmd => 0x010
  | .status => 0x014
  | .irqEn => 0x018
  | .arg i => 0x020 + 4 * i.val

/-- The host offset of a `<target>`: `buf+<off>` means 0x1000 + off (30_encoding R103). -/
def targetOffset : Target → Nat
  | .reg r => regOffset r
  | .buf off => bufBase + off

/-- The ARG register of an operand name (30_encoding R104). -/
def operandArg : OperandName → Fin 8
  | .dst => 0
  | .tag => 0
  | .src => 1
  | .u => 1
  | .pk => 1
  | .msg => 1
  | .len => 2
  | .k => 2
  | .sk => 2
  | .key => 3
  | .n => 4
  | .inp => 4
  | .c => 7

/-- `wr32 <register>, <value>` as an access. -/
def regWrite (r : RegName) (v : Word) : HostOp := .access (.wr32 (regOffset r) v)

/-- The command pseudo-instruction: `wr32 ARGi, value` for each operand in the order written, then `wr32 CMD, word`
(30_encoding R104). -/
def expandCommand (op : Byte) (alt ic : Bool) (operands : List (OperandName × Word)) : List HostOp :=
  operands.map (fun o => regWrite (.arg (operandArg o.1)) o.2) ++ [regWrite .cmd (commandWord op alt ic)]

/-- `wrbuf`: one `wr8` a byte (30_encoding R105). -/
def expandWrbuf : Nat → Bytes → List HostOp
  | _, [] => []
  | off, v :: vs => .access (.wr8 (bufBase + off) v) :: expandWrbuf (off + 1) vs

/-- `rdbuf`: one `rd8` a byte (30_encoding R105). -/
def expandRdbuf : Nat → Nat → List HostOp
  | _, 0 => []
  | off, n + 1 => .access (.rd8 (bufBase + off)) :: expandRdbuf (off + 1) n

/-- What a line expands to, where `place` says where each label stands (30_encoding R103 to R105). -/
def expandLine (place : Nat → Nat) : HostLine → List HostOp
  | .wr32 t v => [.access (.wr32 (targetOffset t) v)]
  | .rd32 t => [.access (.rd32 (targetOffset t))]
  | .wr8 off v => [.access (.wr8 (bufBase + off) v)]
  | .rd8 off => [.access (.rd8 (bufBase + off))]
  | .command op alt ic operands => expandCommand op alt ic operands
  | .wrbuf off B => expandWrbuf off B
  | .rdbuf off n => expandRdbuf off n
  | .wait => [.wait]
  | .b l => [.jump (place l)]
  | .bErr l => [.jumpErr (place l)]
  | .label _ => []
  | .clrdone => [regWrite .status 0x00000002#32]

/-- Where a label stands: how many operations the lines before it expand to, counted from `n`; the place past the end
for a label the program does not define. -/
def labelPlace (l : Nat) : Nat → List HostLine → Nat
  | n, [] => n
  | n, line :: p =>
    if line = .label l then n else labelPlace l (n + (expandLine (fun _ => 0) line).length) p

/-- A host program as the operations the host performs; none for a program that is not well formed
(notes/assumptions/14.md). -/
def assemble (p : List HostLine) : Option (List HostOp) :=
  if programWellFormed p then some (p.flatMap (expandLine (fun l => labelPlace l 0 p))) else none

/-- A host that is about to perform a program from its first operation (model's own, notes/assumptions/4.md). -/
def loadHost (ops : List HostOp) (s : State) : State :=
  { s with host := { HostAgent.idle with prog := ops } }

end Sys2Proof.Machine
end

