-- ==== Sys2Proof/Safety.lean ====
section
/-! DEFINITION. The invariant of the machine and the words claims use of a run: idle, quiescent, completed. -/

namespace Sys2Proof.Machine

/-- The memory is in canonical form and lists no offset outside BUF (10_state R33, R34). -/
def State.memOk (s : State) : Prop := Memory.wf s.mem = true ∧ Memory.inside s.bufSize s.mem = true

/-- While BUSY = 1 the latch is what the host reads back of CMD and the ARGs (10_state R31), DONE is 0 (R27) and
ERRCODE reads 0x00 (70_reset_and_hazards R296). -/
def State.busyOk (s : State) : Prop :=
  s.busy = true → s.latch.cmd = s.cmd ∧ s.latch.arg = s.args ∧ s.done = false ∧ s.errcode = .ok

/-- The invariant every step keeps. -/
structure State.Inv (s : State) : Prop where
  /-- BUF_SIZE is one the spec allows (00_scope R7) -/
  size : Config.legalBufSize s.bufSize = true
  mem : s.memOk
  busy : s.busyOk

/-- A run is over: the host has no operation left, no turn is listed, and BUSY = 0 (00_scope R16). -/
def State.quiescent (s : State) : Prop :=
  s.turns = [] ∧ s.busy = false ∧ s.host.prog[s.host.pc]? = none

/-- The bytes of BUF at `a` hold the string `B`. -/
def State.holds (s : State) (a : Nat) (B : Bytes) : Prop := Memory.readBytes s.mem a B.length = some B

/-- The host access writes what BUSY = 1 protects: CMD, an ARG, or a byte of BUF (20_memory R66). -/
def State.operandWrite (s : State) (a : HostAccess) : Prop :=
  (∃ v, a = .wr32 0x010 v) ∨ (∃ (i : Fin 8) (v : Word), a = .wr32 (0x020 + 4 * i.val) v) ∨
    ∃ h, 0x1000 ≤ h ∧ h < 0x1000 + s.bufSize ∧ ((∃ b, a = .wr8 h b) ∨ ∃ v, a = .wr32 h v)

/-- Two ranges share no byte (20_memory R71, for non-empty ranges). -/
def Range.disjoint (r q : Range) : Prop := r.off + r.len ≤ q.off ∨ q.off + q.len ≤ r.off ∨ r.len = 0 ∨ q.len = 0

end Sys2Proof.Machine
end

