-- ==== Sys2Proof/Certificates/Slice0/Obligations.lean ====
section
/-! DEFINITION. The statements for the provers. A host offset 0x1000 + i names BUF byte i; `s.latch.arg.xN` is the latched
x[N] that the engine reads (45_control R252). -/

open Sys2Proof Sys2Proof.Machine

/-! ## Encoding -/

/-- A few command words written out bit by bit from 30_encoding R91 and R98, one of each family and each flag form. That the
word 0x213, SALSA20_XOR with I = 1, decodes to the form `.salsa20Xor true` is the model's choice of log entry 8
(notes/assumptions/8.md): for it the decoder of 30_encoding R102 answers Error(ERR_UNSUPPORTED), as R99 says, where the model
answers the form, whose meaning then completes with ERR_UNSUPPORTED. -/
def Obligations.SampleCommandWordsDecode : Prop :=
  decode 0b0000000000000000000000_0_0_00000000#32 = .ok .nop ∧
  decode 0b0000000000000000000000_0_0_00000011#32 = .ok .x25519 ∧
  decode 0b0000000000000000000000_0_0_00010010#32 = .ok (.hsalsa20 false) ∧
  decode 0b0000000000000000000000_0_1_00010010#32 = .ok (.hsalsa20 true) ∧
  decode 0b0000000000000000000000_0_0_00010011#32 = .ok (.salsa20Xor false) ∧
  decode 0b0000000000000000000000_1_0_00010011#32 = .ok (.salsa20Xor true) ∧
  decode 0b0000000000000000000000_0_0_00100001#32 = .ok .poly1305Verify ∧
  decode 0b0000000000000000000000_0_0_00110100#32 = .ok .boxDecryptSym ∧
  decode 0b0000000000000000000000_0_0_00000101#32 = .error .opcode ∧
  decode 0b0000000000000000000001_0_0_00000011#32 = .error .reserved ∧
  decode 0b0000000000000000000000_0_1_00000011#32 = .error .flag

/-- The decoder accepts exactly the encodings, and reads back the command they encode, with every flag a row leaves
open at both values (30_encoding R98, R102). -/
def Obligations.DecodeInvertsEncodeExactly : Prop :=
  ∀ (w : Word) (i : Instr), decode w = .ok i ↔ encode i = w

/-- The pseudocode of 30_encoding R102, line by line, over all 2^32 words. The model's instruction form for I = 1 on
0x13 to 0x16 stands for R102's `Error(ERR_UNSUPPORTED)` (notes/assumptions/8.md). -/
def Obligations.DecoderIsTheSpecsDecode : Prop :=
  ∀ w : Word,
    (match decode w with
      | .ok i => if i.icBit then .error .unsupported else .ok (i.op, i.altBit)
      | .error e => .error e : Except ErrCode (Byte × Bool)) =
    (let op : Byte := w.extractLsb' 0 8
     let a := w.getLsbD 8
     let i := w.getLsbD 9
     if w.toNat / 2 ^ 10 ≠ 0 then .error .reserved
     else if op.toNat ∉ [0x00, 0x01, 0x02, 0x03, 0x04, 0x10, 0x11, 0x12, 0x13, 0x14, 0x15, 0x16, 0x20, 0x21,
         0x30, 0x31, 0x32, 0x33, 0x34] then .error .opcode
     else if a = true ∧ op.toNat ∉ [0x10, 0x11, 0x12] then .error .flag
     else if i = true ∧ op.toNat ∉ [0x13, 0x14, 0x15, 0x16] then .error .flag
     else if i = true then .error .unsupported
     else .ok (op, a))

/-- Every command word that selects no defined form ends in its error and never reaches the engine's computation: the
engine's step changes STATUS only (30_encoding R95, R99). -/
def Obligations.UndefinedWordsEndInTheirError : Prop :=
  ∀ s : State, s.busy = true → s.turns = [] →
    let w := s.latch.cmd
    let op := w.toNat % 256
    let failsWith := fun e => step s = .next { s with busy := false, done := true, errcode := e }
    (w.toNat / 2 ^ 10 ≠ 0 → failsWith .reserved) ∧
    (w.toNat / 2 ^ 10 = 0 →
      (5 ≤ op ∧ op ≤ 0x0F ∨ 0x17 ≤ op ∧ op ≤ 0x1F ∨ 0x22 ≤ op ∧ op ≤ 0x2F ∨ 0x35 ≤ op → failsWith .opcode) ∧
      (op ≤ 4 ∨ 0x10 ≤ op ∧ op ≤ 0x16 ∨ 0x20 ≤ op ∧ op ≤ 0x21 ∨ 0x30 ≤ op ∧ op ≤ 0x34 →
        (w.getLsbD 8 = true ∧ ¬(0x10 ≤ op ∧ op ≤ 0x12) ∨ w.getLsbD 9 = true ∧ ¬(0x13 ≤ op ∧ op ≤ 0x16) →
          failsWith .flag) ∧
        (w.getLsbD 8 = false ∧ w.getLsbD 9 = true ∧ 0x13 ≤ op ∧ op ≤ 0x16 → failsWith .unsupported)))

/-! ## The step -/

/-- While BUSY = 1 the engine's step is `exec` of the command the latched word decodes to (45_control R251), and
`withFetchWord` places a command so that the next step runs it (notes/assumptions/9.md). -/
def Obligations.StepRunsTheLatchedCommand : Prop :=
  ∀ (s : State) (i : Instr),
    (s.busy = true → decode s.latch.cmd = .ok i →
      (s.turns = [] → step s = exec i s) ∧
      ∀ ts, s.turns = .engine :: ts → step s = exec i { s with turns := ts }) ∧
    step (s.withFetchWord 32 (encode i).toNat) = exec i (s.withFetchWord 32 (encode i).toNat)

/-- Whose step it is: the listed turn's; with none listed the engine's while BUSY = 1, else the host's. An engine that
is IDLE has no step (20_memory R77, 45_control R251, 00_scope R16; notes/assumptions/3.md). -/
def Obligations.StepFollowsTheTurns : Prop :=
  ∀ (s : State) (ts : List Turn),
    (s.turns = .host :: ts → step s = hostStep { s with turns := ts }) ∧
    (s.turns = .engine :: ts → s.busy = true → step s = engineStep { s with turns := ts }) ∧
    (s.turns = .engine :: ts → s.busy = false → step s = .next { s with turns := ts }) ∧
    (s.turns = [] → s.busy = true → step s = engineStep s) ∧
    (s.turns = [] → s.busy = false → step s = hostStep s)

/-- With the engine's step next, an issued command completes in that step, with DONE = 1 and BUSY = 0, or the model
stops with UninitRead: no command hangs and none is refused (45_control R251, R253, 00_scope R16). -/
def Obligations.IssuedCommandCompletesInOneStep : Prop :=
  ∀ s : State, s.busy = true → s.turns = [] →
    step s = .fault .uninitRead ∨ ∃ t, step s = .next t ∧ t.busy = false ∧ t.done = true ∧ t.turns = []

/-! ## Reset -/

/-- The complete reset state (10_state R37), for every BUF_SIZE; what LATCH holds is not stated. -/
def Obligations.ResetStateIsAsSpecified : Prop :=
  ∀ n : Word,
    let s := State.resetOf n
    readReg s (some .id) = 0x4E41434C#32 ∧ readReg s (some .version) = 0x00000001#32 ∧
    readReg s (some .bufsz) = n ∧ readReg s (some .cmd) = 0#32 ∧ readReg s (some .status) = 0#32 ∧
    s.busy = false ∧ s.done = false ∧ s.busywr = false ∧ s.errcode.number = 0x00#8 ∧
    readReg s (some .irqEn) = 0#32 ∧ s.irq = false ∧ (∀ i, readReg s (some (.arg i)) = 0#32) ∧
    ∀ a, Memory.read s.mem a = none

/-- Asserting reset puts the block in the reset state whatever state it was in, BUSY = 1 included: the running command
never completes and none of its writes appears (70_reset_and_hazards R290, R291). -/
def Obligations.ResetInputRestoresTheResetState : Prop :=
  ∀ (s : State) (ts : List Turn), s.turns = .reset :: ts →
    ∃ t, step s = .next t ∧ t.turns = ts ∧
      readReg t (some .id) = 0x4E41434C#32 ∧ readReg t (some .version) = 0x00000001#32 ∧
      t.bufsz = s.bufsz ∧ t.cmd = 0#32 ∧ (∀ i, t.args.get i = 0#32) ∧ irqEnWord t = 0#32 ∧
      statusWord t = 0#32 ∧ t.busy = false ∧ t.done = false ∧ t.busywr = false ∧ t.errcode = .ok ∧ t.irq = false ∧
      ∀ a, Memory.read t.mem a = none

/-- The reset state meets the invariant, at every BUF_SIZE the spec allows. -/
def Obligations.ResetMeetsTheInvariant : Prop :=
  State.reset.Inv ∧ ∀ n : Word, Config.legalBufSize n.toNat = true → (State.resetOf n).Inv

/-- From every state that meets the invariant a step gives one that meets it, and BUF_SIZE never changes: the memory
keeps its canonical form inside BUF, and while BUSY = 1 the latch is what CMD and the ARGs read, DONE is 0 and ERRCODE
is 0x00 (10_state R27, R31, R33, R36, 70_reset_and_hazards R296). -/
def Obligations.EveryStepKeepsTheInvariant : Prop :=
  ∀ s t : State, s.Inv → step s = .next t → t.Inv ∧ t.bufsz = s.bufsz

/-! ## Registers and the host port -/

/-- ID, VERSION and BUFSZ read their constants and the parameter, and ignore writes, BUSY or not (10_state R22, R24, R25). -/
def Obligations.ConstantRegistersAreReadOnly : Prop :=
  ∀ (s : State) (v : Word),
    hostAccess (.rd32 0x000) s = .next (answer (.word 0x4E41434C#32) s) ∧
    hostAccess (.rd32 0x004) s = .next (answer (.word 0x00000001#32) s) ∧
    hostAccess (.rd32 0x008) s = .next (answer (.word (BitVec.ofNat 32 s.bufSize)) s) ∧
    hostAccess (.wr32 0x000 v) s = .next s ∧ hostAccess (.wr32 0x004 v) s = .next s ∧
    hostAccess (.wr32 0x008 v) s = .next s

/-- A reserved offset reads 0 and ignores writes; the reserved bits of STATUS and IRQ_EN read 0 and ignore writes
(10_state R23). -/
def Obligations.ReservedOffsetsAndBitsReadZero : Prop :=
  ∀ (s : State) (v : Word),
    (∀ h : Nat, h % 4 = 0 → h = 0x00C ∨ h = 0x01C ∨ 0x040 ≤ h ∧ h ≤ 0xFFC →
      hostAccess (.rd32 h) s = .next (answer (.word 0#32) s) ∧ hostAccess (.wr32 h v) s = .next s) ∧
    statusWord s &&& 0xFFFF00F8#32 = 0#32 ∧ irqEnWord s &&& 0xFFFFFFFE#32 = 0#32 ∧
    hostAccess (.wr32 0x014 v) s = hostAccess (.wr32 0x014 (v &&& 0x0000FF07#32)) s ∧
    hostAccess (.wr32 0x018 v) s = hostAccess (.wr32 0x018 (v &&& 0x00000001#32)) s

/-- Issue (45_control R250): any word, legal or not; BUSYWR, IRQ_EN and BUF are unchanged. -/
def Obligations.CmdWriteIssues : Prop :=
  ∀ (s : State) (w : Word), s.busy = false →
    hostAccess (.wr32 0x010 w) s =
      .next { s with cmd := w, latch := { cmd := w, arg := s.args }, busy := true, done := false, errcode := .ok }

/-- While BUSY = 1 a write to CMD, an ARG or BUF is dropped and sets BUSYWR; STATUS and IRQ_EN take their writes; read-only
and reserved offsets ignore theirs and do not set BUSYWR (20_memory R66). -/
def Obligations.WritesWhileBusyAreDropped : Prop :=
  ∀ (s : State) (v : Word) (b : Byte), s.busy = true →
    let dropped : Result := .next { s with busywr := true }
    hostAccess (.wr32 0x010 v) s = dropped ∧
    (∀ i : Fin 8, hostAccess (.wr32 (0x020 + 4 * i.val) v) s = dropped) ∧
    (∀ a, a < s.bufSize → hostAccess (.wr8 (0x1000 + a) b) s = dropped) ∧
    (∀ a, a % 4 = 0 → a + 4 ≤ s.bufSize → hostAccess (.wr32 (0x1000 + a) v) s = dropped) ∧
    hostAccess (.wr32 0x014 v) s =
      .next { s with done := s.done && !v.getLsbD 1, busywr := s.busywr && !v.getLsbD 2 } ∧
    hostAccess (.wr32 0x018 v) s = .next { s with doneIe := v.getLsbD 0 } ∧
    (∀ h : Nat, h % 4 = 0 → h ≤ 0x00C ∨ h = 0x01C ∨ 0x040 ≤ h ∧ h ≤ 0xFFC →
      hostAccess (.wr32 h v) s = .next s)

/-- The fields of STATUS as a read answers them, the number that each error code reads as, and what a write clears, BUSY or
not (10_state R27, 60_exceptions R260). -/
def Obligations.StatusReadsItsFieldsAndClearsByOnes : Prop :=
  ∀ (s : State) (v : Word),
    hostAccess (.rd32 0x014) s = .next (answer (.word (statusWord s)) s) ∧
    (statusWord s).getLsbD 0 = s.busy ∧ (statusWord s).getLsbD 1 = s.done ∧ (statusWord s).getLsbD 2 = s.busywr ∧
    (statusWord s).extractLsb' 8 8 = s.errcode.number ∧
    ErrCode.number .ok = 0x00#8 ∧ ErrCode.number .opcode = 0x01#8 ∧ ErrCode.number .reserved = 0x02#8 ∧
    ErrCode.number .flag = 0x03#8 ∧ ErrCode.number .range = 0x10#8 ∧ ErrCode.number .length = 0x11#8 ∧
    ErrCode.number .overlap = 0x12#8 ∧ ErrCode.number .auth = 0x20#8 ∧ ErrCode.number .unsupported = 0x30#8 ∧
    hostAccess (.wr32 0x014 v) s =
      .next { s with done := s.done && !v.getLsbD 1, busywr := s.busywr && !v.getLsbD 2 }

/-- DONE_IE is bit 0 of IRQ_EN, a write is never dropped, and irq is DONE & DONE_IE of the words a host reads
(10_state R28, R29). -/
def Obligations.IrqIsDoneAndItsEnable : Prop :=
  ∀ (s : State) (v : Word),
    hostAccess (.rd32 0x018) s = .next (answer (.word (if s.doneIe then 1#32 else 0#32)) s) ∧
    hostAccess (.wr32 0x018 v) s = .next { s with doneIe := v.getLsbD 0 } ∧
    s.irq = ((statusWord s).getLsbD 1 && (irqEnWord s).getLsbD 0) ∧ State.reset.irq = false ∧
    State.reset.doneIe = false

/-- The ARG registers: a write while BUSY = 0 is what a read answers, all 32 bits, and touches no other ARG; while BUSY = 1
it is dropped; the engine never writes one; they are 0 at reset (10_state R21). -/
def Obligations.ArgRegistersHoldWhatTheHostWrote : Prop :=
  (∀ (s : State) (i : Fin 8) (v : Word),
    (s.busy = false → ∃ t, hostAccess (.wr32 (0x020 + 4 * i.val) v) s = .next t ∧
      hostAccess (.rd32 (0x020 + 4 * i.val)) t = .next (answer (.word v) t) ∧
      (∀ j, j ≠ i → t.args.get j = s.args.get j) ∧ t = { s with args := t.args }) ∧
    (s.busy = true → hostAccess (.wr32 (0x020 + 4 * i.val) v) s = .next { s with busywr := true }) ∧
    hostAccess (.rd32 (0x020 + 4 * i.val)) s = .next (answer (.word (s.args.get i)) s) ∧
    State.reset.args.get i = 0x00000000#32) ∧
  ∀ (s t : State), engineStep s = .next t → t.args = s.args

/-- CMD: a write while BUSY = 0 stores all 32 bits and issues; while BUSY = 1 it is dropped and sets BUSYWR; a read
answers the stored word and issues nothing; the engine never writes it; it is 0 at reset (10_state R26). -/
def Obligations.CmdHoldsTheLastWord : Prop :=
  (∀ (s : State) (w : Word),
    (s.busy = false → ∃ t, hostAccess (.wr32 0x010 w) s = .next t ∧ t.cmd = w ∧ t.busy = true ∧
      t.done = false ∧ t.errcode = .ok ∧ t.latch = { cmd := w, arg := s.args }) ∧
    (s.busy = true → hostAccess (.wr32 0x010 w) s = .next { s with busywr := true }) ∧
    hostAccess (.rd32 0x010) s = .next (answer (.word s.cmd) s) ∧ State.reset.cmd = 0x00000000#32) ∧
  ∀ (s t : State), engineStep s = .next t → t.cmd = s.cmd

/-- 32-bit accesses to BUF use little-endian lanes (20_memory R61): a read answers le(BUF[a:a+4]); after a write of v the
byte at a + j is v[8j+7:8j], as an 8-bit read sees it, and every other byte is as before. -/
def Obligations.WordAccessesUseLittleEndianLanes : Prop :=
  ∀ (s : State) (a : Nat) (v : Word), s.busy = false → a % 4 = 0 → a + 4 ≤ s.bufSize →
    (∀ B, Memory.readBytes s.mem a 4 = some B →
      hostAccess (.rd32 (0x1000 + a)) s = .next (answer (.word (BitVec.ofNat 32 (le B))) s)) ∧
    ∃ t, hostAccess (.wr32 (0x1000 + a) v) s = .next t ∧ t = { s with mem := t.mem } ∧
      (∀ j, j < 4 →
        Memory.read t.mem (a + j) = some (v.extractLsb' (8 * j) 8) ∧
        hostAccess (.rd8 (0x1000 + a + j)) t = .next (answer (.byte (v.extractLsb' (8 * j) 8)) t)) ∧
      hostAccess (.rd32 (0x1000 + a)) t = .next (answer (.word v) t) ∧
      ∀ x, x < a ∨ a + 4 ≤ x → Memory.read t.mem x = Memory.read s.mem x

/-- When a host access is one of the two model faults (20_memory R62, R63, R68, 10_state R34): BadHostAccess for a wrong
width or alignment or an offset outside the window, UninitRead for an idle read that covers an unwritten byte. -/
def Obligations.HostAccessFaultsExactly : Prop :=
  ∀ (s : State) (h : Nat) (b : Byte) (v : Word) (bits : Nat), Config.legalBufSize s.bufSize = true →
    let bad : Result := .fault .badHostAccess
    let uninit : Result := .fault .uninitRead
    (hostAccess (.rd8 h) s = bad ↔ h < 0x1000 ∨ 0x1000 + s.bufSize ≤ h) ∧
    (hostAccess (.wr8 h b) s = bad ↔ h < 0x1000 ∨ 0x1000 + s.bufSize ≤ h) ∧
    (hostAccess (.rd32 h) s = bad ↔ h % 4 ≠ 0 ∨ 0x1000 + s.bufSize ≤ h) ∧
    (hostAccess (.wr32 h v) s = bad ↔ h % 4 ≠ 0 ∨ 0x1000 + s.bufSize ≤ h) ∧
    hostAccess (.otherWidth bits h) s = bad ∧
    (hostAccess (.rd8 h) s = uninit ↔
      s.busy = false ∧ 0x1000 ≤ h ∧ h < 0x1000 + s.bufSize ∧ Memory.read s.mem (h - 0x1000) = none) ∧
    (hostAccess (.rd32 h) s = uninit ↔
      s.busy = false ∧ h % 4 = 0 ∧ 0x1000 ≤ h ∧ h < 0x1000 + s.bufSize ∧
        ∃ j, j < 4 ∧ Memory.read s.mem (h - 0x1000 + j) = none) ∧
    hostAccess (.wr8 h b) s ≠ uninit ∧ hostAccess (.wr32 h v) s ≠ uninit

/-- A host read changes nothing of the block: only the model's record of the answer and the count of free bytes move;
and while BUSY = 1 what a read answers does not depend on what BUF holds (20_memory R62, R63, R67, R73; the free bytes
are notes/assumptions/5.md). -/
def Obligations.HostReadsHaveNoSideEffect : Prop :=
  ∀ (s t : State) (a : HostAccess), (∃ h, a = .rd8 h ∨ a = .rd32 h) → hostAccess a s = .next t →
    (∃ r n, t = answer r { s with draws := s.draws + n }) ∧
    (s.busy = false → ∃ r, t = answer r s) ∧
    (s.busy = true → ∀ m, hostAccess a { s with mem := m } = .next { t with mem := m })

/-- `wait` records the STATUS value it read and stays iff BUSY = 1; `b.err` is taken iff bits 15:8 of that value are not
0x00 (30_encoding R105). Neither changes the block. -/
def Obligations.WaitAndBranchFollowStatus : Prop :=
  ∀ (s : State) (l : Nat),
    (s.host.prog[s.host.pc]? = some .wait →
      hostStep s = .next { s with host :=
        { prog := s.host.prog
          pc := if s.busy then s.host.pc else s.host.pc + 1
          lastStatus := statusWord s
          replies := .word (statusWord s) :: s.host.replies } }) ∧
    (s.host.prog[s.host.pc]? = some (.jumpErr l) →
      hostStep s = .next { s with host :=
        { s.host with pc := if s.host.lastStatus.toNat / 256 % 256 = 0 then s.host.pc + 1 else l } })

/-- Running what `wrbuf` expands to writes the byte string, one byte an access (30_encoding R105); running what the
command pseudo-instruction `<mnemonic> dst=d, u=x, k=y` expands to writes the ARGs in order and issues the word
`(I << 9) | (A << 8) | OP` (R104). -/
def Obligations.HostNotationRunsAsItExpands : Prop :=
  ∀ s : State, s.busy = false → s.turns = [] → s.host.pc = 0 →
    (∀ (off : Nat) (B : Bytes), s.host.prog = expandWrbuf off B → off + B.length ≤ s.bufSize →
      Host.Core.run core B.length s =
        .next { s with mem := Memory.writeBytes s.mem off B, host := { s.host with pc := B.length } }) ∧
    (∀ (op : Byte) (alt ic : Bool) (d x y : Word),
      s.host.prog = expandCommand op alt ic [(.dst, d), (.u, x), (.k, y)] →
      ∃ t, Host.Core.run core 4 s = .next t ∧ t.busy = true ∧
        t.cmd.toNat = ic.toNat * 2 ^ 9 + alt.toNat * 2 ^ 8 + op.toNat ∧ t.latch.cmd = t.cmd ∧
        t.latch.arg = { s.args with x0 := d, x1 := x, x2 := y } ∧ t.mem = s.mem)

/-! ## The common steps of every command -/

/-- The argument checks in their fixed order: LENGTH, then RANGE, then OVERLAP; the first that fails is the code, and
only when all pass is the command executed, whose one error is ERR_AUTH of 0x21, 0x32 and 0x34 (60_exceptions R262,
20_memory R70, R71; `operandsOf` is the table of 30_encoding R97). -/
def Obligations.ArgumentChecksInFixedOrder : Prop :=
  ∀ (s : State) (i : Instr), i.icBit = false →
    let o := operandsOf i s.latch.arg
    let failsWith := fun e => exec i s = .next { s with busy := false, done := true, errcode := e }
    let rangesHold := ∀ r ∈ o.outs ++ o.ins ++ o.inPlace, r.off + r.len ≤ s.bufSize
    let overlap := fun r q : Range => 0 < r.len ∧ 0 < q.len ∧ r.off < q.off + q.len ∧ q.off < r.off + r.len
    let clash := ∃ r ∈ o.outs, (∃ q ∈ o.ins, overlap r q) ∨ ∃ q ∈ o.inPlace, overlap r q ∧ r ≠ q
    (o.len < o.minLen → failsWith .length) ∧
    (o.minLen ≤ o.len → ¬rangesHold → failsWith .range) ∧
    (o.minLen ≤ o.len → rangesHold → clash → failsWith .overlap) ∧
    (o.minLen ≤ o.len → rangesHold → ¬clash →
      exec i s = .fault .uninitRead ∨
      ∃ t, exec i s = .next t ∧
        (t.errcode = .ok ∨ t.errcode = .auth ∧ (i = .poly1305Verify ∨ i = .boxOpenAfternm ∨ i = .boxDecryptSym)))

/-- An erring command, whatever its error, writes no BUF byte and changes only STATUS (60_exceptions R264). -/
def Obligations.ErrorsChangeOnlyStatus : Prop :=
  ∀ s t : State, engineStep s = .next t → t.errcode ≠ .ok →
    t = { s with busy := false, done := true, errcode := t.errcode }

/-- The frame of every command (45_control R254): with an error code only STATUS changes; without one STATUS and exactly
the bytes of the output ranges change, and each of them is written. The count of free bytes is the model's own. -/
def Obligations.CommandsChangeOnlyOutputsAndStatus : Prop :=
  ∀ (i : Instr) (s t : State), exec i s = .next t →
    t = { s with busy := false, done := true, errcode := t.errcode, mem := t.mem, draws := t.draws } ∧
    (∀ a, (∀ r ∈ (operandsOf i s.latch.arg).outs, ¬(r.off ≤ a ∧ a < r.off + r.len)) →
      Memory.read t.mem a = Memory.read s.mem a) ∧
    (t.errcode ≠ .ok → t.mem = s.mem ∧ t.draws = s.draws) ∧
    (t.errcode = .ok → ∀ r ∈ (operandsOf i s.latch.arg).outs, ∀ a, r.off ≤ a → a < r.off + r.len →
      (Memory.read t.mem a).isSome = true)

/-- The explicit-initial-counter form of the four stream and XOR commands ends with ERR_UNSUPPORTED, reads no BUF byte
and writes none, whatever the operands (42_salsa20 R187). -/
def Obligations.ExplicitCounterIsUnsupported : Prop :=
  ∀ (s : State) (i : Instr),
    i = .salsa20Xor true ∨ i = .xsalsa20Xor true ∨ i = .salsa20Stream true ∨ i = .xsalsa20Stream true →
    exec i s = .next { s with busy := false, done := true, errcode := .unsupported } ∧
    ErrCode.number .unsupported = 0x30#8

/-- A command computes from LATCH and BUF alone: not from CMD, the ARGs, IRQ_EN or BUSYWR (10_state R31), and from no
latched ARG5 or ARG6 (30_encoding R97). -/
def Obligations.EngineReadsOnlyLatchAndBuf : Prop :=
  ∀ (i : Instr) (s : State) (c v5 v6 : Word) (a : ArgFile) (wr ie : Bool),
    let perturb := fun u : State =>
      { u with cmd := c, args := a, busywr := wr, doneIe := ie,
               latch := { u.latch with arg := { u.latch.arg with x5 := v5, x6 := v6 } } }
    exec i (perturb s) =
      match exec i s with
      | .next t => .next (perturb t)
      | .fault f => .fault f
      | .refused r => .refused r

/-! ## What each command does: it completes, and this is its result -/

/-- NOP (45_control R255), in every state. -/
def Obligations.NopCompletes : Prop :=
  ∀ s : State, exec .nop s = .next { s with busy := false, done := true, errcode := .ok }

/-- CLAMP (41_x25519 R155, R150): as an integer, `(le(k) & (2^255 - 8)) | 2^254`. -/
def Obligations.ClampWritesTheClampedScalar : Prop :=
  ∀ (s : State) (k : Bytes),
    let x := s.latch.arg
    x.x0.toNat + 32 ≤ s.bufSize → x.x2.toNat + 32 ≤ s.bufSize →
    (x.x0.toNat + 32 ≤ x.x2.toNat ∨ x.x2.toNat + 32 ≤ x.x0.toNat) →
    Memory.readBytes s.mem x.x2.toNat 32 = some k →
    exec .clamp s = .next { s with
      busy := false, done := true, errcode := .ok
      mem := Memory.writeBytes s.mem x.x0.toNat (leN 32 ((le k &&& (2 ^ 255 - 8)) ||| 2 ^ 254)) }

/-- X25519_RAW (41_x25519 R156): the unclamped ladder; bit 255 of u is dropped and u is reduced (40_field R131). -/
def Obligations.X25519RawWritesTheLadder : Prop :=
  ∀ (s : State) (u k : Bytes),
    let x := s.latch.arg
    x.x0.toNat + 32 ≤ s.bufSize → x.x1.toNat + 32 ≤ s.bufSize → x.x2.toNat + 32 ≤ s.bufSize →
    (x.x0.toNat + 32 ≤ x.x1.toNat ∨ x.x1.toNat + 32 ≤ x.x0.toNat) →
    (x.x0.toNat + 32 ≤ x.x2.toNat ∨ x.x2.toNat + 32 ≤ x.x0.toNat) →
    Memory.readBytes s.mem x.x1.toNat 32 = some u → Memory.readBytes s.mem x.x2.toNat 32 = some k →
    exec .x25519Raw s = .next { s with
      busy := false, done := true, errcode := .ok
      mem := Memory.writeBytes s.mem x.x0.toNat
        (leN 32 (ladder (le k) (le u % 2 ^ 255 % (2 ^ 255 - 19)) % (2 ^ 255 - 19))) }

/-- X25519 (41_x25519 R157): the ladder on the clamped scalar and u with bit 255 masked. -/
def Obligations.X25519WritesTheClampedLadder : Prop :=
  ∀ (s : State) (u k : Bytes),
    let x := s.latch.arg
    x.x0.toNat + 32 ≤ s.bufSize → x.x1.toNat + 32 ≤ s.bufSize → x.x2.toNat + 32 ≤ s.bufSize →
    (x.x0.toNat + 32 ≤ x.x1.toNat ∨ x.x1.toNat + 32 ≤ x.x0.toNat) →
    (x.x0.toNat + 32 ≤ x.x2.toNat ∨ x.x2.toNat + 32 ≤ x.x0.toNat) →
    Memory.readBytes s.mem x.x1.toNat 32 = some u → Memory.readBytes s.mem x.x2.toNat 32 = some k →
    exec .x25519 s = .next { s with
      busy := false, done := true, errcode := .ok
      mem := Memory.writeBytes s.mem x.x0.toNat
        (leN 32 (ladder ((le k &&& (2 ^ 255 - 8)) ||| 2 ^ 254) (le u % 2 ^ 255 % (2 ^ 255 - 19)) % (2 ^ 255 - 19))) }

/-- X25519_BASE (41_x25519 R158): X25519 with u = 9; x[1] is not read. -/
def Obligations.X25519BaseIsX25519AtNine : Prop :=
  ∀ (s : State) (k : Bytes),
    let x := s.latch.arg
    x.x0.toNat + 32 ≤ s.bufSize → x.x2.toNat + 32 ≤ s.bufSize →
    (x.x0.toNat + 32 ≤ x.x2.toNat ∨ x.x2.toNat + 32 ≤ x.x0.toNat) →
    Memory.readBytes s.mem x.x2.toNat 32 = some k →
    exec .x25519Base s = .next { s with
      busy := false, done := true, errcode := .ok
      mem := Memory.writeBytes s.mem x.x0.toNat (x25519Bytes (0x09#8 :: zeros 31) k) }

/-- SALSA20_ROUNDS and SALSA20_BLOCK (42_salsa20 R179 to R181), with A = 0 (the constant is SIGMA) and A = 1 (the 16 bytes
at x[7]). -/
def Obligations.CoreCommandsWriteTheirBlock : Prop :=
  ∀ (s : State) (alt : Bool) (key inp c : Bytes),
    let x := s.latch.arg
    let apart := fun a n : Nat => x.x0.toNat + 64 ≤ a ∨ a + n ≤ x.x0.toNat
    let constant := if alt then c else sigma
    x.x0.toNat + 64 ≤ s.bufSize → x.x3.toNat + 32 ≤ s.bufSize → x.x4.toNat + 16 ≤ s.bufSize →
    apart x.x3.toNat 32 → apart x.x4.toNat 16 →
    Memory.readBytes s.mem x.x3.toNat 32 = some key → Memory.readBytes s.mem x.x4.toNat 16 = some inp →
    (alt = true → x.x7.toNat + 16 ≤ s.bufSize ∧ apart x.x7.toNat 16 ∧
      Memory.readBytes s.mem x.x7.toNat 16 = some c) →
    exec (.salsa20Rounds alt) s = .next { s with
      busy := false, done := true, errcode := .ok
      mem := Memory.writeBytes s.mem x.x0.toNat
        ((salsaRounds (salsaLoad constant key inp)).toList.flatMap fun y => leN 4 y.toNat) } ∧
    exec (.salsa20Block alt) s = .next { s with
      busy := false, done := true, errcode := .ok
      mem := Memory.writeBytes s.mem x.x0.toNat (salsaBlock constant key inp) }

/-- HSALSA20 (42_salsa20 R182, R180): words 0, 5, 10, 15, 6, 7, 8, 9 of what SALSA20_ROUNDS gives. -/
def Obligations.Hsalsa20WritesTheSubkey : Prop :=
  ∀ (s : State) (alt : Bool) (key inp c : Bytes),
    let x := s.latch.arg
    let apart := fun a n : Nat => x.x0.toNat + 32 ≤ a ∨ a + n ≤ x.x0.toNat
    let y := roundsBytes (if alt then c else sigma) key inp
    let word := fun j : Nat => slice y (4 * j) (4 * j + 4)
    x.x0.toNat + 32 ≤ s.bufSize → x.x3.toNat + 32 ≤ s.bufSize → x.x4.toNat + 16 ≤ s.bufSize →
    apart x.x3.toNat 32 → apart x.x4.toNat 16 →
    Memory.readBytes s.mem x.x3.toNat 32 = some key → Memory.readBytes s.mem x.x4.toNat 16 = some inp →
    (alt = true → x.x7.toNat + 16 ≤ s.bufSize ∧ apart x.x7.toNat 16 ∧
      Memory.readBytes s.mem x.x7.toNat 16 = some c) →
    exec (.hsalsa20 alt) s = .next { s with
      busy := false, done := true, errcode := .ok
      mem := Memory.writeBytes s.mem x.x0.toNat
        (word 0 ++ word 5 ++ word 10 ++ word 15 ++ word 6 ++ word 7 ++ word 8 ++ word 9) }

/-- SALSA20_XOR and XSALSA20_XOR (42_salsa20 R184, R186), in place or apart, L = 0 included. -/
def Obligations.XorCommandsXorTheKeystream : Prop :=
  ∀ (s : State) (msg key : Bytes),
    let x := s.latch.arg
    let L := x.x2.toNat
    let apart := fun a n : Nat => L = 0 ∨ x.x0.toNat + L ≤ a ∨ a + n ≤ x.x0.toNat
    x.x0.toNat + L ≤ s.bufSize → x.x1.toNat + L ≤ s.bufSize → x.x3.toNat + 32 ≤ s.bufSize →
    (x.x0 = x.x1 ∨ apart x.x1.toNat L) → apart x.x3.toNat 32 →
    Memory.readBytes s.mem x.x1.toNat L = some msg → Memory.readBytes s.mem x.x3.toNat 32 = some key →
    (∀ n8, x.x4.toNat + 8 ≤ s.bufSize → apart x.x4.toNat 8 → Memory.readBytes s.mem x.x4.toNat 8 = some n8 →
      exec (.salsa20Xor false) s = .next { s with
        busy := false, done := true, errcode := .ok
        mem := Memory.writeBytes s.mem x.x0.toNat (xorBytes msg (salsa20Stream key n8 L)) }) ∧
    (∀ n24, x.x4.toNat + 24 ≤ s.bufSize → apart x.x4.toNat 24 → Memory.readBytes s.mem x.x4.toNat 24 = some n24 →
      exec (.xsalsa20Xor false) s = .next { s with
        busy := false, done := true, errcode := .ok
        mem := Memory.writeBytes s.mem x.x0.toNat (xorBytes msg (xsalsa20Stream key n24 L)) })

/-- SALSA20_STREAM and XSALSA20_STREAM (42_salsa20 R183, R185, R178), L = 0 included. -/
def Obligations.StreamCommandsWriteTheKeystream : Prop :=
  ∀ (s : State) (key : Bytes),
    let x := s.latch.arg
    let L := x.x2.toNat
    let apart := fun a n : Nat => L = 0 ∨ x.x0.toNat + L ≤ a ∨ a + n ≤ x.x0.toNat
    x.x0.toNat + L ≤ s.bufSize → x.x3.toNat + 32 ≤ s.bufSize → apart x.x3.toNat 32 →
    Memory.readBytes s.mem x.x3.toNat 32 = some key →
    (∀ n8, x.x4.toNat + 8 ≤ s.bufSize → apart x.x4.toNat 8 → Memory.readBytes s.mem x.x4.toNat 8 = some n8 →
      exec (.salsa20Stream false) s = .next { s with
        busy := false, done := true, errcode := .ok
        mem := Memory.writeBytes s.mem x.x0.toNat (salsa20Stream key n8 L) }) ∧
    (∀ n24, x.x4.toNat + 24 ≤ s.bufSize → apart x.x4.toNat 24 → Memory.readBytes s.mem x.x4.toNat 24 = some n24 →
      exec (.xsalsa20Stream false) s = .next { s with
        busy := false, done := true, errcode := .ok
        mem := Memory.writeBytes s.mem x.x0.toNat
          (salsa20Stream (hsalsa20 sigma key (n24.take 16)) (n24.drop 16) L) })

/-- POLY1305 (43_poly1305 R205, R203): 16 tag bytes at x[0]. -/
def Obligations.Poly1305WritesTheTag : Prop :=
  ∀ (s : State) (msg key : Bytes),
    let x := s.latch.arg
    let L := x.x2.toNat
    x.x0.toNat + 16 ≤ s.bufSize → x.x1.toNat + L ≤ s.bufSize → x.x3.toNat + 32 ≤ s.bufSize →
    (L = 0 ∨ x.x0.toNat + 16 ≤ x.x1.toNat ∨ x.x1.toNat + L ≤ x.x0.toNat) →
    (x.x0.toNat + 16 ≤ x.x3.toNat ∨ x.x3.toNat + 32 ≤ x.x0.toNat) →
    Memory.readBytes s.mem x.x1.toNat L = some msg → Memory.readBytes s.mem x.x3.toNat 32 = some key →
    exec .poly1305 s = .next { s with
      busy := false, done := true, errcode := .ok
      mem := Memory.writeBytes s.mem x.x0.toNat (poly1305Tag key msg) }

/-- POLY1305_VERIFY (43_poly1305 R206): 0x00 iff all 16 bytes are equal, else ERR_AUTH; no BUF byte is written in either
case, and there is no overlap check. -/
def Obligations.Poly1305VerifyComparesTheTag : Prop :=
  ∀ (s : State) (tag msg key : Bytes),
    let x := s.latch.arg
    let L := x.x2.toNat
    x.x0.toNat + 16 ≤ s.bufSize → x.x1.toNat + L ≤ s.bufSize → x.x3.toNat + 32 ≤ s.bufSize →
    Memory.readBytes s.mem x.x0.toNat 16 = some tag → Memory.readBytes s.mem x.x1.toNat L = some msg →
    Memory.readBytes s.mem x.x3.toNat 32 = some key →
    exec .poly1305Verify s = .next { s with
      busy := false, done := true
      errcode := if tag = poly1305Tag key msg then .ok else .auth }

/-- BOX_BEFORENM (44_box R223, R220): HSalsa20 of the X25519 output as key and 16 zero bytes as input. -/
def Obligations.BoxBeforenmWritesTheSharedKey : Prop :=
  ∀ (s : State) (pk sk : Bytes),
    let x := s.latch.arg
    x.x0.toNat + 32 ≤ s.bufSize → x.x1.toNat + 32 ≤ s.bufSize → x.x2.toNat + 32 ≤ s.bufSize →
    (x.x0.toNat + 32 ≤ x.x1.toNat ∨ x.x1.toNat + 32 ≤ x.x0.toNat) →
    (x.x0.toNat + 32 ≤ x.x2.toNat ∨ x.x2.toNat + 32 ≤ x.x0.toNat) →
    Memory.readBytes s.mem x.x1.toNat 32 = some pk → Memory.readBytes s.mem x.x2.toNat 32 = some sk →
    exec .boxBeforenm s = .next { s with
      busy := false, done := true, errcode := .ok
      mem := Memory.writeBytes s.mem x.x0.toNat (hsalsa20 sigma (x25519Bytes pk sk) (zeros 16)) }

/-- BOX_AFTERNM (44_box R224, R221), in place or apart: 16 bytes of any value (notes/assumptions/5.md), then the tag over
the payload, then the payload. -/
def Obligations.BoxAfternmWritesTagAndPayload : Prop :=
  ∀ (s : State) (E key n : Bytes),
    let x := s.latch.arg
    let L := x.x2.toNat
    let C := xorBytes E (xsalsa20Stream key n L)
    32 ≤ L → x.x0.toNat + L ≤ s.bufSize → x.x1.toNat + L ≤ s.bufSize →
    x.x3.toNat + 32 ≤ s.bufSize → x.x4.toNat + 24 ≤ s.bufSize →
    (x.x0 = x.x1 ∨ x.x0.toNat + L ≤ x.x1.toNat ∨ x.x1.toNat + L ≤ x.x0.toNat) →
    (x.x0.toNat + L ≤ x.x3.toNat ∨ x.x3.toNat + 32 ≤ x.x0.toNat) →
    (x.x0.toNat + L ≤ x.x4.toNat ∨ x.x4.toNat + 24 ≤ x.x0.toNat) →
    Memory.readBytes s.mem x.x1.toNat L = some E → Memory.readBytes s.mem x.x3.toNat 32 = some key →
    Memory.readBytes s.mem x.x4.toNat 24 = some n →
    exec .boxAfternm s = .next { s with
      busy := false, done := true, errcode := .ok
      mem := Memory.writeBytes
        (Memory.writeBytes s.mem x.x0.toNat ((List.range 16).map fun j => Config.freeByte (s.draws + j)))
        (x.x0.toNat + 16) (poly1305Tag (C.take 32) (C.drop 32) ++ C.drop 32)
      draws := s.draws + 16 }

/-- BOX_OPEN_AFTERNM (44_box R225, R222, R230), in place or apart: on a matching tag, 32 zero bytes and the plaintext;
on a mismatch ERR_AUTH and no write. -/
def Obligations.BoxOpenAfternmReleasesOnlyAuthentic : Prop :=
  ∀ (s : State) (C key n : Bytes),
    let x := s.latch.arg
    let L := x.x2.toNat
    let S := xsalsa20Stream key n L
    32 ≤ L → x.x0.toNat + L ≤ s.bufSize → x.x1.toNat + L ≤ s.bufSize →
    x.x3.toNat + 32 ≤ s.bufSize → x.x4.toNat + 24 ≤ s.bufSize →
    (x.x0 = x.x1 ∨ x.x0.toNat + L ≤ x.x1.toNat ∨ x.x1.toNat + L ≤ x.x0.toNat) →
    (x.x0.toNat + L ≤ x.x3.toNat ∨ x.x3.toNat + 32 ≤ x.x0.toNat) →
    (x.x0.toNat + L ≤ x.x4.toNat ∨ x.x4.toNat + 24 ≤ x.x0.toNat) →
    Memory.readBytes s.mem x.x1.toNat L = some C → Memory.readBytes s.mem x.x3.toNat 32 = some key →
    Memory.readBytes s.mem x.x4.toNat 24 = some n →
    exec .boxOpenAfternm s =
      if poly1305Tag (S.take 32) (C.drop 32) = slice C 16 32 then
        .next { s with
          busy := false, done := true, errcode := .ok
          mem := Memory.writeBytes s.mem x.x0.toNat (zeros 32 ++ xorBytes (C.drop 32) (S.drop 32)) }
      else .next { s with busy := false, done := true, errcode := .auth }

/-- BOX_ENCRYPT_SYM (44_box R226): the 16-byte MAC, then the ciphertext; L = 0 included. -/
def Obligations.BoxEncryptSymWritesMacThenCiphertext : Prop :=
  ∀ (s : State) (M key n : Bytes),
    let x := s.latch.arg
    let L := x.x2.toNat
    let S := xsalsa20Stream key n (L + 32)
    let payload := xorBytes M (S.drop 32)
    x.x0.toNat + (L + 16) ≤ s.bufSize → x.x1.toNat + L ≤ s.bufSize →
    x.x3.toNat + 32 ≤ s.bufSize → x.x4.toNat + 24 ≤ s.bufSize →
    (L = 0 ∨ x.x0.toNat + (L + 16) ≤ x.x1.toNat ∨ x.x1.toNat + L ≤ x.x0.toNat) →
    (x.x0.toNat + (L + 16) ≤ x.x3.toNat ∨ x.x3.toNat + 32 ≤ x.x0.toNat) →
    (x.x0.toNat + (L + 16) ≤ x.x4.toNat ∨ x.x4.toNat + 24 ≤ x.x0.toNat) →
    Memory.readBytes s.mem x.x1.toNat L = some M → Memory.readBytes s.mem x.x3.toNat 32 = some key →
    Memory.readBytes s.mem x.x4.toNat 24 = some n →
    exec .boxEncryptSym s = .next { s with
      busy := false, done := true, errcode := .ok
      mem := Memory.writeBytes s.mem x.x0.toNat (poly1305Tag (S.take 32) payload ++ payload) }

/-- BOX_DECRYPT_SYM (44_box R227): on a matching tag the L - 16 plaintext bytes, on a mismatch ERR_AUTH and no write;
L = 16 included. -/
def Obligations.BoxDecryptSymReleasesOnlyAuthentic : Prop :=
  ∀ (s : State) (C key n : Bytes),
    let x := s.latch.arg
    let L := x.x2.toNat
    let S := xsalsa20Stream key n (L + 16)
    16 ≤ L → x.x0.toNat + (L - 16) ≤ s.bufSize → x.x1.toNat + L ≤ s.bufSize →
    x.x3.toNat + 32 ≤ s.bufSize → x.x4.toNat + 24 ≤ s.bufSize →
    (L = 16 ∨ x.x0.toNat + (L - 16) ≤ x.x1.toNat ∨ x.x1.toNat + L ≤ x.x0.toNat) →
    (L = 16 ∨ x.x0.toNat + (L - 16) ≤ x.x3.toNat ∨ x.x3.toNat + 32 ≤ x.x0.toNat) →
    (L = 16 ∨ x.x0.toNat + (L - 16) ≤ x.x4.toNat ∨ x.x4.toNat + 24 ≤ x.x0.toNat) →
    Memory.readBytes s.mem x.x1.toNat L = some C → Memory.readBytes s.mem x.x3.toNat 32 = some key →
    Memory.readBytes s.mem x.x4.toNat 24 = some n →
    exec .boxDecryptSym s =
      if poly1305Tag (S.take 32) (C.drop 16) = C.take 16 then
        .next { s with
          busy := false, done := true, errcode := .ok
          mem := Memory.writeBytes s.mem x.x0.toNat (xorBytes (C.drop 16) (S.drop 32)) }
      else .next { s with busy := false, done := true, errcode := .auth }

/-! ## The functions -/

/-- `finv` is the power a^(p-2) mod p, and is 0 at 0 (40_field R138; notes/assumptions/11.md). -/
def Obligations.FieldInverseIsThePower : Prop :=
  ∀ a : Nat, finv a = a ^ (2 ^ 255 - 19 - 2) % (2 ^ 255 - 19) ∧ (a % (2 ^ 255 - 19) = 0 → finv a = 0)

/-- For a not 0 modulo p, `fmul(a, finv(a)) = 1` (40_field R138). -/
def Obligations.FieldInverseInverts : Prop :=
  ∀ a : Nat, a % (2 ^ 255 - 19) ≠ 0 → fmul a (finv a) = 1

/-- `fencode(v)` is the 32-byte little-endian encoding of the unique residue: bit 255 is 0 and the encoding is canonical;
decoding it gives the residue back (40_field R132). -/
def Obligations.FieldEncodingIsCanonical : Prop :=
  ∀ v : Nat, (fencode v).length = 32 ∧ le (fencode v) = v % (2 ^ 255 - 19) ∧ (le (fencode v)).testBit 255 = false ∧
    fdecode (fencode v) = v % (2 ^ 255 - 19)

/-- The ladder reads bits 254 to 0 of its scalar and no bit above (41_x25519 R151). -/
def Obligations.LadderReadsBits254Down : Prop :=
  ∀ n m x : Nat, (∀ t, t ≤ 254 → n.testBit t = m.testBit t) → ladder n x = ladder m x

/-- The degenerate cases of the raw ladder: scalar 0 gives 0, and u = 0 gives 0 for every scalar (41_x25519 R154, R156). -/
def Obligations.LadderOfZeroIsZero : Prop :=
  (∀ x : Nat, ladder 0 x = 0) ∧ ∀ n : Nat, ladder n 0 = 0

/-- X25519 depends on u only through its value mod 2^255 mod p, and on k only through its clamped bits: bits 0 to 2, 254
and 255 of k, bit 255 of u and the excess over p do not matter (41_x25519 R157). -/
def Obligations.X25519DependsOnReducedOperands : Prop :=
  ∀ u u' k k' : Bytes, u.length = 32 → u'.length = 32 → k.length = 32 → k'.length = 32 →
    le u % 2 ^ 255 % (2 ^ 255 - 19) = le u' % 2 ^ 255 % (2 ^ 255 - 19) →
    (∀ t, 3 ≤ t → t ≤ 253 → (le k).testBit t = (le k').testBit t) →
    x25519Bytes u k = x25519Bytes u' k'

/-- Block b of a Salsa20 stream is SALSA20_BLOCK's output for the counter b (42_salsa20 R177, R181). -/
def Obligations.StreamBlockHasItsCounter : Prop :=
  ∀ (k n8 : Bytes) (L b : Nat), b < 2 ^ 64 → 64 * (b + 1) ≤ L →
    slice (salsa20Stream k n8 L) (64 * b) (64 * b + 64) = salsaBlock sigma k (n8 ++ leN 8 b)

/-- The one-time key of box_open_afternm is the first 32 bytes of the XSalsa20 stream, and for a zero lead it is the one-time
key of box_afternm (44_box R230). -/
def Obligations.BoxOneTimeKeyIsTheStreamHead : Prop :=
  ∀ key n M : Bytes, n.length = 24 →
    boxOpenKey key n = xsalsa20Stream key n 32 ∧
    boxOpenKey key n = slice (salsa20Stream (boxSubkey key n) (slice n 16 24) 64) 0 32 ∧
    boxOpenKey key n = slice (boxCipher key n (zeros 32 ++ M)) 0 32

/-- Running SALSA20_XOR twice in place with the same key and nonce restores every byte of BUF (42_salsa20 R184). -/
def Obligations.XorTwiceRestoresTheData : Prop :=
  ∀ s t t' : State, s.latch.arg.x0 = s.latch.arg.x1 →
    exec (.salsa20Xor false) s = .next t → exec (.salsa20Xor false) t = .next t' →
    ∀ a, Memory.read t'.mem a = Memory.read s.mem a

/-- Poly1305 on the empty message gives the second key half, and a zero key gives a zero tag for every message
(43_poly1305 R204, R205). -/
def Obligations.Poly1305OfEmptyAndOfZeroKey : Prop :=
  (∀ K : Bytes, K.length = 32 → poly1305Tag K [] = slice K 16 32) ∧
  ∀ M : Bytes, poly1305Tag (zeros 32) M = zeros 16

/-- Opening what BOX_AFTERNM gives for 32 zero bytes and a message gives 32 zero bytes and the message, whatever the 16
unspecified bytes hold (44_box R225). -/
def Obligations.OpenInvertsAfternm : Prop :=
  ∀ any16 key n M : Bytes, any16.length = 16 → n.length = 24 →
    boxOpenAfternm key n (boxAfternm any16 key n (zeros 32 ++ M)) = some (zeros 32 ++ M)

/-- The round trip of the symmetric box: decrypting what encrypting gives is the message (44_box R227). -/
def Obligations.DecryptInvertsEncrypt : Prop :=
  ∀ key n M : Bytes, n.length = 24 → boxDecryptSym key n (boxEncryptSym key n M) = some M

/-! ## Whole-machine rules -/

/-- While a command stays issued, nothing changes its operands: CMD, the ARGs, LATCH and BUF stand still, whatever the host
does (20_memory R66, R79, 10_state R31). -/
def Obligations.BusyHoldsOperandsStill : Prop :=
  ∀ s t : State, s.busy = true → step s = .next t → t.busy = true →
    t.cmd = s.cmd ∧ t.args = s.args ∧ t.latch = s.latch ∧ t.mem = s.mem ∧ t.bufsz = s.bufsz ∧ t.errcode = s.errcode

/-- BUF changes only by a reset, by a command that completes without error, or by a host write to BUF while IDLE
(10_state R33). -/
def Obligations.OnlyNamedEventsChangeBuf : Prop :=
  ∀ s t : State, step s = .next t → t.mem ≠ s.mem →
    s.turns.head? = some .reset ∨
    (s.busy = true ∧ t.busy = false ∧ t.errcode = .ok) ∨
    (s.busy = false ∧ ∃ h, 0x1000 ≤ h ∧
      ((∃ v, s.host.prog[s.host.pc]? = some (.access (.wr8 h v))) ∨
        ∃ v, s.host.prog[s.host.pc]? = some (.access (.wr32 h v))))

/-- What changes a flag (10_state R27, 20_memory R66, 60_exceptions R263, R265, R270): ERRCODE changes only at completion,
issue or reset; DONE is set only by completion and cleared only by issue, a STATUS write of bit 1, or reset; BUSYWR is set
only where BUSY = 1 and it is the host's turn to write CMD, an ARG or a byte of BUF, and cleared only by a STATUS write of
bit 2 or reset. -/
def Obligations.FlagsChangeOnlyAsNamed : Prop :=
  ∀ s t : State, step s = .next t →
    let reset := s.turns.head? = some .reset
    let issued := s.busy = false ∧ t.busy = true
    let completed := s.busy = true ∧ t.busy = false
    let statusWrite := fun n : Nat => ∃ v : Word,
      s.host.prog[s.host.pc]? = some (.access (.wr32 0x014 v)) ∧ v.getLsbD n = true
    (t.errcode ≠ s.errcode → reset ∨ issued ∨ completed) ∧
    (s.done = false → t.done = true → completed) ∧
    (s.done = true → t.done = false → reset ∨ issued ∨ statusWrite 1) ∧
    (s.busywr = false → t.busywr = true → s.busy = true ∧ s.turns.head? = some .host ∧
      ∃ a, s.host.prog[s.host.pc]? = some (.access a) ∧ s.operandWrite a) ∧
    (s.busywr = true → t.busywr = false → reset ∨ statusWrite 2)
end

