-- ==== Sys2Proof/Laws/Bytes.lean ====
section
/-! SUPPORT. The laws of `le`, `le_N` and byte strings (00_scope R8 to R10). -/

namespace Sys2Proof.Machine

@[simp] theorem leN_length (n v : Nat) : (leN n v).length = n := by
  induction n generalizing v with
  | zero => rfl
  | succ n ih => simp [leN, ih]

@[simp] theorem wordBytes_length (y : Word) : (wordBytes y).length = 4 := leN_length 4 _

@[simp] theorem zeros_length (n : Nat) : (zeros n).length = n := by simp [zeros]

@[simp] theorem xorBytes_length (A B : Bytes) : (xorBytes A B).length = min A.length B.length := by
  simp [xorBytes]

@[simp] theorem slice_length (B : Bytes) (i j : Nat) : (slice B i j).length = min (j - i) (B.length - i) := by
  simp [slice]

/-- `le` of an encoding is the value mod 2^(8N); equal to it on the domain 00_scope R10 gives `le_N`. -/
theorem le_leN (n v : Nat) : le (leN n v) = v % 256 ^ n := by
  induction n generalizing v with
  | zero => simp [leN, le, Nat.mod_one]
  | succ n ih =>
    rw [leN, le, ih, BitVec.toNat_ofNat, Nat.pow_succ' (m := 256), Nat.mod_mul]

theorem le_lt (B : Bytes) : le B < 256 ^ B.length := by
  induction B with
  | nil => simp [le]
  | cons b bs ih =>
    have hb : b.toNat < 256 := b.isLt
    rw [le, List.length_cons, pow_succ']
    omega

/-- An encoding of a string's value on its own length gives the string back. -/
theorem leN_le (B : Bytes) : leN B.length (le B) = B := by
  induction B with
  | nil => rfl
  | cons b bs ih =>
    have hb : b.toNat < 256 := b.isLt
    rw [le, List.length_cons, leN, show (b.toNat + 256 * le bs) / 256 = le bs by omega, ih]
    refine congrArg (· :: bs) (BitVec.eq_of_toNat_eq ?_)
    rw [BitVec.toNat_ofNat]
    omega

theorem le_append (A B : Bytes) : le (A ++ B) = le A + 256 ^ A.length * le B := by
  induction A with
  | nil => simp [le]
  | cons a as ih => rw [List.cons_append, le, le, ih, List.length_cons, pow_succ']; ring

@[simp] theorem le_zeros (n : Nat) : le (zeros n) = 0 := by
  induction n with
  | zero => rfl
  | succ n ih => simpa [zeros, List.replicate_succ, le] using ih

/-- XOR with a string of at least the same length is an involution (42_salsa20 R184). -/
theorem xorBytes_xorBytes (M S : Bytes) (h : M.length ≤ S.length) : xorBytes (xorBytes M S) S = M := by
  induction M generalizing S with
  | nil => rfl
  | cons m ms ih =>
    cases S with
    | nil => simp at h
    | cons x xs =>
      have hx : (m ^^^ x) ^^^ x = m := by rw [BitVec.xor_assoc, BitVec.xor_self, BitVec.xor_zero]
      simp only [xorBytes, List.zipWith_cons_cons, hx] at *
      rw [ih xs (by simpa using h)]

end Sys2Proof.Machine
end

