-- ==== Sys2Proof/Laws/Lengths.lean ====
section
/-! SUPPORT. How many bytes each function of the spec gives, whatever its operands hold. -/

namespace Sys2Proof.Machine

@[simp] theorem fencode_length (v : Nat) : (fencode v).length = 32 := leN_length 32 _

@[simp] theorem clampScalar_length (k : Bytes) : (clampScalar k).length = k.length := by simp [clampScalar]

@[simp] theorem x25519RawBytes_length (u k : Bytes) : (x25519RawBytes u k).length = 32 := fencode_length _

@[simp] theorem x25519Bytes_length (u k : Bytes) : (x25519Bytes u k).length = 32 := fencode_length _

@[simp] theorem x25519BaseBytes_length (k : Bytes) : (x25519BaseBytes k).length = 32 := fencode_length _

theorem flatMap_wordBytes_length (l : List Word) : (l.flatMap wordBytes).length = 4 * l.length := by
  induction l with
  | nil => rfl
  | cons y l ih => rw [List.flatMap_cons, List.length_append, wordBytes_length, ih, List.length_cons]; omega

@[simp] theorem stateBytes_length (y : SalsaState) : (stateBytes y).length = 64 := by
  rw [stateBytes, flatMap_wordBytes_length]; simp

@[simp] theorem roundsBytes_length (c k inp : Bytes) : (roundsBytes c k inp).length = 64 := stateBytes_length _

@[simp] theorem salsaBlock_length (c k inp : Bytes) : (salsaBlock c k inp).length = 64 := stateBytes_length _

@[simp] theorem hsalsa20_length (c k inp : Bytes) : (hsalsa20 c k inp).length = 32 := by
  rw [hsalsa20, flatMap_wordBytes_length]; rfl

@[simp] theorem inc8_length (ctr : Bytes) : (inc8 ctr).length = ctr.length := by
  induction ctr with
  | nil => rfl
  | cons b bs ih => rw [inc8]; split <;> simp [ih]

@[simp] theorem streamBlocks_length (k n8 ctr : Bytes) (n : Nat) : (streamBlocks k n8 n ctr).length = 64 * n := by
  induction n generalizing ctr with
  | zero => rfl
  | succ n ih => rw [streamBlocks, List.length_append, ih, salsaBlock_length]; omega

@[simp] theorem salsa20Stream_length (k n8 : Bytes) (L : Nat) : (salsa20Stream k n8 L).length = L := by
  rw [salsa20Stream, List.length_take, streamBlocks_length, ceilDiv]; omega

@[simp] theorem xsalsa20Stream_length (k n24 : Bytes) (L : Nat) : (xsalsa20Stream k n24 L).length = L :=
  salsa20Stream_length _ _ L

@[simp] theorem poly1305Tag_length (K M : Bytes) : (poly1305Tag K M).length = 16 := leN_length 16 _

@[simp] theorem boxBeforenm_length (pk sk : Bytes) : (boxBeforenm pk sk).length = 32 := hsalsa20_length _ _ _

@[simp] theorem boxCipher_length (key n E : Bytes) : (boxCipher key n E).length = E.length := by
  simp [boxCipher]

/-- With 16 unspecified bytes, box_afternm gives as many bytes as the expanded message has (44_box R221). -/
theorem boxAfternm_length (any16 key n E : Bytes) (ha : any16.length = 16) (hE : 32 ≤ E.length) :
    (boxAfternm any16 key n E).length = E.length := by
  simp [boxAfternm, ha]; omega

theorem boxEncryptSym_length (key n M : Bytes) : (boxEncryptSym key n M).length = M.length + 16 := by
  rw [boxEncryptSym, List.length_drop, boxAfternm_length _ _ _ _ (by simp) (by simp)]
  simp; omega

theorem boxOpenAfternm_length {key n C R : Bytes} (hC : 32 ≤ C.length) (h : boxOpenAfternm key n C = some R) :
    R.length = C.length := by
  unfold boxOpenAfternm at h
  split at h
  · cases h; simp; omega
  · cases h

theorem boxDecryptSym_length {key n C R : Bytes} (hC : 16 ≤ C.length) (h : boxDecryptSym key n C = some R) :
    R.length = C.length - 16 := by
  unfold boxDecryptSym at h
  rw [Option.map_eq_some_iff] at h
  obtain ⟨Q, hQ, rfl⟩ := h
  have := boxOpenAfternm_length (by simp; omega) hQ
  simp at this ⊢
  omega

end Sys2Proof.Machine
end

