-- ==== Sys2Proof/Laws/Memory.lean ====
section
/-! SUPPORT. The laws of BUF: a read after a write, the frame of a write, and the canonical form (10_state R33, R34,
20_memory R64, R65). They hold of every list of cells, canonical or not, but for the last section. -/

namespace Sys2Proof.Machine

/-! ## One byte -/

/-- A byte just written reads as what was written. -/
theorem Memory.read_write_same (m : Memory) (a : Nat) (v : Byte) : Memory.read (Memory.write m a v) a = some v := by
  induction m with
  | nil => simp [Memory.write, Memory.read]
  | cons c m ih =>
    obtain ⟨k, b⟩ := c
    rw [Memory.write]
    split
    · simp [Memory.read]
    split
    · simp [Memory.read]
    · rw [Memory.read, if_neg (by omega), ih]

/-- Writing a byte leaves every other byte. -/
theorem Memory.read_write_other (m : Memory) {a x : Nat} (v : Byte) (h : x ≠ a) :
    Memory.read (Memory.write m a v) x = Memory.read m x := by
  induction m with
  | nil => simp [Memory.write, Memory.read, Ne.symm h]
  | cons c m ih =>
    obtain ⟨k, b⟩ := c
    rw [Memory.write]
    split
    · rw [Memory.read, if_neg (Ne.symm h)]
    split
    · next hk => subst hk; simp [Memory.read, Ne.symm h]
    · rw [Memory.read, Memory.read, ih]

/-! ## Byte strings -/

/-- Outside the bytes written, everything reads as before (45_control R254). -/
theorem Memory.read_writeBytes_outside (B : Bytes) (m : Memory) {a x : Nat} (h : x < a ∨ a + B.length ≤ x) :
    Memory.read (Memory.writeBytes m a B) x = Memory.read m x := by
  induction B generalizing m a with
  | nil => rfl
  | cons b B ih =>
    rw [List.length_cons] at h
    rw [Memory.writeBytes, ih _ (by omega), Memory.read_write_other _ _ (by omega)]

/-- Inside the bytes written, each reads as its byte of the string. -/
theorem Memory.read_writeBytes_inside (B : Bytes) (m : Memory) {a i : Nat} (h : i < B.length) :
    Memory.read (Memory.writeBytes m a B) (a + i) = some B[i] := by
  induction B generalizing m a i with
  | nil => simp at h
  | cons b B ih =>
    rw [Memory.writeBytes]
    cases i with
    | zero => rw [Memory.read_writeBytes_outside _ _ (by omega)]; exact Memory.read_write_same _ _ _
    | succ i =>
      rw [show a + (i + 1) = a + 1 + i by omega, ih _ (by simpa using h)]
      simp

/-- `readBytes` answers a string iff it has the asked length and each of its bytes is the byte read there. -/
theorem Memory.readBytes_eq_some (m : Memory) (a n : Nat) (B : Bytes) :
    Memory.readBytes m a n = some B ↔
      B.length = n ∧ ∀ i (h : i < B.length), Memory.read m (a + i) = some B[i] := by
  induction n generalizing a B with
  | zero =>
    rw [Memory.readBytes]
    constructor
    · intro h; cases h; simp
    · rintro ⟨h, -⟩; rw [List.length_eq_zero_iff.mp h]
  | succ n ih =>
    rw [Memory.readBytes]
    constructor
    · intro h
      split at h
      · next b bs hb hbs =>
        cases h
        obtain ⟨hl, hr⟩ := (ih _ _).mp hbs
        refine ⟨by simp [hl], fun i hi => ?_⟩
        cases i with
        | zero => simpa using hb
        | succ i =>
          have := hr i (by simpa using hi)
          rw [show a + (i + 1) = a + 1 + i by omega, this]; simp
      · cases h
    · rintro ⟨hl, hr⟩
      cases B with
      | nil => simp at hl
      | cons b bs =>
        have h0 := hr 0 (by simp)
        have h1 : Memory.readBytes m (a + 1) n = some bs := (ih _ _).mpr
          ⟨by simpa using hl, fun i hi => by
            have := hr (i + 1) (by simpa using hi)
            rw [show a + 1 + i = a + (i + 1) by omega, this]; simp⟩
        simp only [Nat.add_zero, List.getElem_cons_zero] at h0
        rw [h0, h1]

theorem Memory.readBytes_length {m : Memory} {a n : Nat} {B : Bytes} (h : Memory.readBytes m a n = some B) :
    B.length = n := ((Memory.readBytes_eq_some m a n B).mp h).1

/-- Reading depends on the bytes of the range only. -/
theorem Memory.readBytes_congr {m m' : Memory} {a n : Nat}
    (h : ∀ x, a ≤ x → x < a + n → Memory.read m' x = Memory.read m x) :
    Memory.readBytes m' a n = Memory.readBytes m a n := by
  induction n generalizing a with
  | zero => rfl
  | succ n ih =>
    rw [Memory.readBytes, Memory.readBytes, h a (by omega) (by omega), ih fun x h1 h2 => h x (by omega) (by omega)]

/-- A string just written is read back (20_memory R65). -/
theorem Memory.readBytes_writeBytes (m : Memory) (a : Nat) (B : Bytes) :
    Memory.readBytes (Memory.writeBytes m a B) a B.length = some B :=
  (Memory.readBytes_eq_some _ _ _ _).mpr ⟨rfl, fun _ h => Memory.read_writeBytes_inside B m h⟩

/-- A string outside the bytes written is read as before. -/
theorem Memory.readBytes_writeBytes_outside (m : Memory) {a x n : Nat} (B : Bytes)
    (h : x + n ≤ a ∨ a + B.length ≤ x ∨ n = 0 ∨ B.length = 0) :
    Memory.readBytes (Memory.writeBytes m a B) x n = Memory.readBytes m x n :=
  Memory.readBytes_congr fun y h1 h2 => Memory.read_writeBytes_outside B m (by omega)

/-- Writing a string in two parts. -/
theorem Memory.writeBytes_append (m : Memory) (a : Nat) (A B : Bytes) :
    Memory.writeBytes m a (A ++ B) = Memory.writeBytes (Memory.writeBytes m a A) (a + A.length) B := by
  induction A generalizing m a with
  | nil => rfl
  | cons b A ih =>
    rw [List.cons_append, Memory.writeBytes, Memory.writeBytes, ih, List.length_cons]
    congr 1; omega

/-! ## The canonical form -/

theorem Memory.risesFrom_mono {m : Memory} {a b : Nat} (hab : b ≤ a) (h : Memory.risesFrom a m = true) :
    Memory.risesFrom b m = true := by
  cases m with
  | nil => rfl
  | cons c m =>
    simp only [Memory.risesFrom, Bool.and_eq_true, decide_eq_true_eq] at *
    exact ⟨by omega, h.2⟩

theorem Memory.risesFrom_write {m : Memory} {lo a : Nat} (v : Byte) (hlo : lo ≤ a)
    (h : Memory.risesFrom lo m = true) : Memory.risesFrom lo (Memory.write m a v) = true := by
  induction m generalizing lo with
  | nil => simp [Memory.write, Memory.risesFrom, hlo]
  | cons c m ih =>
    obtain ⟨k, b⟩ := c
    simp only [Memory.risesFrom, Bool.and_eq_true, decide_eq_true_eq] at h
    rw [Memory.write]
    split
    · simp only [Memory.risesFrom, Bool.and_eq_true, decide_eq_true_eq]
      exact ⟨hlo, by omega, h.2⟩
    split
    · next hk => subst hk; simp only [Memory.risesFrom, Bool.and_eq_true, decide_eq_true_eq]; exact h
    · simp only [Memory.risesFrom, Bool.and_eq_true, decide_eq_true_eq]
      exact ⟨h.1, ih (by omega) h.2⟩

/-- Writing a byte keeps the canonical form. -/
theorem Memory.write_wf {m : Memory} (a : Nat) (v : Byte) (h : Memory.wf m = true) :
    Memory.wf (Memory.write m a v) = true := Memory.risesFrom_write v (Nat.zero_le a) h

/-- Writing a string keeps the canonical form. -/
theorem Memory.writeBytes_wf {m : Memory} (a : Nat) (B : Bytes) (h : Memory.wf m = true) :
    Memory.wf (Memory.writeBytes m a B) = true := by
  induction B generalizing m a with
  | nil => exact h
  | cons b B ih => exact ih _ (Memory.write_wf a b h)

theorem Memory.write_inside {m : Memory} {size a : Nat} (v : Byte) (ha : a < size)
    (h : Memory.inside size m = true) : Memory.inside size (Memory.write m a v) = true := by
  induction m with
  | nil => simp [Memory.write, Memory.inside, ha]
  | cons c m ih =>
    obtain ⟨k, b⟩ := c
    simp only [Memory.inside, List.all_cons, Bool.and_eq_true, decide_eq_true_eq] at h ih ⊢
    rw [Memory.write]
    split
    · simp only [List.all_cons, Bool.and_eq_true, decide_eq_true_eq]; exact ⟨ha, h⟩
    split
    · simp only [List.all_cons, Bool.and_eq_true, decide_eq_true_eq]; exact ⟨ha, h.2⟩
    · simp only [List.all_cons, Bool.and_eq_true, decide_eq_true_eq]; exact ⟨h.1, ih h.2⟩

/-- Writing a string inside BUF lists no offset outside BUF. -/
theorem Memory.writeBytes_inside {m : Memory} {size a : Nat} (B : Bytes) (ha : a + B.length ≤ size)
    (h : Memory.inside size m = true) : Memory.inside size (Memory.writeBytes m a B) = true := by
  induction B generalizing m a with
  | nil => exact h
  | cons b B ih =>
    rw [List.length_cons] at ha
    exact ih (by omega) (Memory.write_inside b (by omega) h)

/-- Two memories in canonical form that read the same are the same data. -/
theorem Memory.ext_of_wf {m m' : Memory} (h : Memory.wf m = true) (h' : Memory.wf m' = true)
    (hr : ∀ a, Memory.read m a = Memory.read m' a) : m = m' := by
  have below : ∀ (m : Memory) (lo x : Nat), Memory.risesFrom lo m = true → x < lo → Memory.read m x = none := by
    intro m
    induction m with
    | nil => intros; rfl
    | cons c m ih =>
      intro lo x hm hx
      simp only [Memory.risesFrom, Bool.and_eq_true, decide_eq_true_eq] at hm
      rw [Memory.read, if_neg (by omega)]
      exact ih (c.1 + 1) x hm.2 (by omega)
  have go : ∀ (m m' : Memory) (lo : Nat), Memory.risesFrom lo m = true → Memory.risesFrom lo m' = true →
      (∀ a, Memory.read m a = Memory.read m' a) → m = m' := by
    intro m
    induction m with
    | nil =>
      intro m' lo _ _ hr
      cases m' with
      | nil => rfl
      | cons c m' => have := hr c.1; simp [Memory.read, Memory.unlisted] at this
    | cons c m ih =>
      intro m' lo hm hm' hr
      cases m' with
      | nil => have := hr c.1; simp [Memory.read, Memory.unlisted] at this
      | cons d m' =>
        obtain ⟨k, b⟩ := c
        obtain ⟨j, e⟩ := d
        simp only [Memory.risesFrom, Bool.and_eq_true, decide_eq_true_eq] at hm hm'
        have hkj : k = j := by
          have hk := hr k
          have hj := hr j
          simp only [Memory.read, ↓reduceIte] at hk hj
          rcases Nat.lt_trichotomy k j with h | h | h
          · rw [if_neg (by omega), below m' (j + 1) k hm'.2 (by omega)] at hk; cases hk
          · exact h
          · rw [if_neg (by omega), below m (k + 1) j hm.2 (by omega)] at hj; cases hj
        subst hkj
        have hbe : b = e := by have := hr k; simpa [Memory.read] using this
        subst hbe
        congr 1
        refine ih m' (k + 1) hm.2 hm'.2 fun a => ?_
        have := hr a
        simp only [Memory.read] at this
        by_cases hak : k = a
        · subst hak; rw [below m (k + 1) k hm.2 (by omega), below m' (k + 1) k hm'.2 (by omega)]
        · simpa [hak] using this
  exact go m m' 0 h h' hr

end Sys2Proof.Machine
end

