-- ==== Sys2Proof/Laws/State.lean ====
section
/-! SUPPORT. What each named update of the state does to each field, true by `rfl`, so that no proof unfolds an update. -/

namespace Sys2Proof.Machine

@[simp] theorem complete_bufsz (code : ErrCode) (s : State) : (complete code s).bufsz = s.bufsz := rfl
@[simp] theorem complete_cmd (code : ErrCode) (s : State) : (complete code s).cmd = s.cmd := rfl
@[simp] theorem complete_busy (code : ErrCode) (s : State) : (complete code s).busy = false := rfl
@[simp] theorem complete_done (code : ErrCode) (s : State) : (complete code s).done = true := rfl
@[simp] theorem complete_busywr (code : ErrCode) (s : State) : (complete code s).busywr = s.busywr := rfl
@[simp] theorem complete_errcode (code : ErrCode) (s : State) : (complete code s).errcode = code := rfl
@[simp] theorem complete_doneIe (code : ErrCode) (s : State) : (complete code s).doneIe = s.doneIe := rfl
@[simp] theorem complete_args (code : ErrCode) (s : State) : (complete code s).args = s.args := rfl
@[simp] theorem complete_latch (code : ErrCode) (s : State) : (complete code s).latch = s.latch := rfl
@[simp] theorem complete_mem (code : ErrCode) (s : State) : (complete code s).mem = s.mem := rfl
@[simp] theorem complete_host (code : ErrCode) (s : State) : (complete code s).host = s.host := rfl
@[simp] theorem complete_turns (code : ErrCode) (s : State) : (complete code s).turns = s.turns := rfl
@[simp] theorem complete_draws (code : ErrCode) (s : State) : (complete code s).draws = s.draws := rfl
@[simp] theorem complete_bufSize (code : ErrCode) (s : State) : (complete code s).bufSize = s.bufSize := rfl

@[simp] theorem issue_bufsz (w : Word) (s : State) : (issue w s).bufsz = s.bufsz := rfl
@[simp] theorem issue_cmd (w : Word) (s : State) : (issue w s).cmd = w := rfl
@[simp] theorem issue_busy (w : Word) (s : State) : (issue w s).busy = true := rfl
@[simp] theorem issue_done (w : Word) (s : State) : (issue w s).done = false := rfl
@[simp] theorem issue_busywr (w : Word) (s : State) : (issue w s).busywr = s.busywr := rfl
@[simp] theorem issue_errcode (w : Word) (s : State) : (issue w s).errcode = .ok := rfl
@[simp] theorem issue_doneIe (w : Word) (s : State) : (issue w s).doneIe = s.doneIe := rfl
@[simp] theorem issue_args (w : Word) (s : State) : (issue w s).args = s.args := rfl
@[simp] theorem issue_latch (w : Word) (s : State) : (issue w s).latch = { cmd := w, arg := s.args } := rfl
@[simp] theorem issue_mem (w : Word) (s : State) : (issue w s).mem = s.mem := rfl
@[simp] theorem issue_host (w : Word) (s : State) : (issue w s).host = s.host := rfl
@[simp] theorem issue_turns (w : Word) (s : State) : (issue w s).turns = s.turns := rfl
@[simp] theorem issue_draws (w : Word) (s : State) : (issue w s).draws = s.draws := rfl
@[simp] theorem issue_bufSize (w : Word) (s : State) : (issue w s).bufSize = s.bufSize := rfl

@[simp] theorem writeStatus_bufsz (v : Word) (s : State) : (writeStatus v s).bufsz = s.bufsz := rfl
@[simp] theorem writeStatus_cmd (v : Word) (s : State) : (writeStatus v s).cmd = s.cmd := rfl
@[simp] theorem writeStatus_busy (v : Word) (s : State) : (writeStatus v s).busy = s.busy := rfl
@[simp] theorem writeStatus_done (v : Word) (s : State) : (writeStatus v s).done = (s.done && !v.getLsbD 1) := rfl
@[simp] theorem writeStatus_busywr (v : Word) (s : State) : (writeStatus v s).busywr = (s.busywr && !v.getLsbD 2) := rfl
@[simp] theorem writeStatus_errcode (v : Word) (s : State) : (writeStatus v s).errcode = s.errcode := rfl
@[simp] theorem writeStatus_doneIe (v : Word) (s : State) : (writeStatus v s).doneIe = s.doneIe := rfl
@[simp] theorem writeStatus_args (v : Word) (s : State) : (writeStatus v s).args = s.args := rfl
@[simp] theorem writeStatus_latch (v : Word) (s : State) : (writeStatus v s).latch = s.latch := rfl
@[simp] theorem writeStatus_mem (v : Word) (s : State) : (writeStatus v s).mem = s.mem := rfl
@[simp] theorem writeStatus_host (v : Word) (s : State) : (writeStatus v s).host = s.host := rfl
@[simp] theorem writeStatus_turns (v : Word) (s : State) : (writeStatus v s).turns = s.turns := rfl
@[simp] theorem writeStatus_draws (v : Word) (s : State) : (writeStatus v s).draws = s.draws := rfl
@[simp] theorem writeStatus_bufSize (v : Word) (s : State) : (writeStatus v s).bufSize = s.bufSize := rfl

@[simp] theorem writeIrqEn_bufsz (v : Word) (s : State) : (writeIrqEn v s).bufsz = s.bufsz := rfl
@[simp] theorem writeIrqEn_cmd (v : Word) (s : State) : (writeIrqEn v s).cmd = s.cmd := rfl
@[simp] theorem writeIrqEn_busy (v : Word) (s : State) : (writeIrqEn v s).busy = s.busy := rfl
@[simp] theorem writeIrqEn_done (v : Word) (s : State) : (writeIrqEn v s).done = s.done := rfl
@[simp] theorem writeIrqEn_busywr (v : Word) (s : State) : (writeIrqEn v s).busywr = s.busywr := rfl
@[simp] theorem writeIrqEn_errcode (v : Word) (s : State) : (writeIrqEn v s).errcode = s.errcode := rfl
@[simp] theorem writeIrqEn_doneIe (v : Word) (s : State) : (writeIrqEn v s).doneIe = v.getLsbD 0 := rfl
@[simp] theorem writeIrqEn_args (v : Word) (s : State) : (writeIrqEn v s).args = s.args := rfl
@[simp] theorem writeIrqEn_latch (v : Word) (s : State) : (writeIrqEn v s).latch = s.latch := rfl
@[simp] theorem writeIrqEn_mem (v : Word) (s : State) : (writeIrqEn v s).mem = s.mem := rfl
@[simp] theorem writeIrqEn_host (v : Word) (s : State) : (writeIrqEn v s).host = s.host := rfl
@[simp] theorem writeIrqEn_turns (v : Word) (s : State) : (writeIrqEn v s).turns = s.turns := rfl
@[simp] theorem writeIrqEn_draws (v : Word) (s : State) : (writeIrqEn v s).draws = s.draws := rfl
@[simp] theorem writeIrqEn_bufSize (v : Word) (s : State) : (writeIrqEn v s).bufSize = s.bufSize := rfl

@[simp] theorem dropWrite_bufsz (s : State) : (dropWrite s).bufsz = s.bufsz := rfl
@[simp] theorem dropWrite_cmd (s : State) : (dropWrite s).cmd = s.cmd := rfl
@[simp] theorem dropWrite_busy (s : State) : (dropWrite s).busy = s.busy := rfl
@[simp] theorem dropWrite_done (s : State) : (dropWrite s).done = s.done := rfl
@[simp] theorem dropWrite_busywr (s : State) : (dropWrite s).busywr = true := rfl
@[simp] theorem dropWrite_errcode (s : State) : (dropWrite s).errcode = s.errcode := rfl
@[simp] theorem dropWrite_doneIe (s : State) : (dropWrite s).doneIe = s.doneIe := rfl
@[simp] theorem dropWrite_args (s : State) : (dropWrite s).args = s.args := rfl
@[simp] theorem dropWrite_latch (s : State) : (dropWrite s).latch = s.latch := rfl
@[simp] theorem dropWrite_mem (s : State) : (dropWrite s).mem = s.mem := rfl
@[simp] theorem dropWrite_host (s : State) : (dropWrite s).host = s.host := rfl
@[simp] theorem dropWrite_turns (s : State) : (dropWrite s).turns = s.turns := rfl
@[simp] theorem dropWrite_draws (s : State) : (dropWrite s).draws = s.draws := rfl
@[simp] theorem dropWrite_bufSize (s : State) : (dropWrite s).bufSize = s.bufSize := rfl

@[simp] theorem setArg_bufsz (i : Fin 8) (v : Word) (s : State) : (setArg i v s).bufsz = s.bufsz := rfl
@[simp] theorem setArg_cmd (i : Fin 8) (v : Word) (s : State) : (setArg i v s).cmd = s.cmd := rfl
@[simp] theorem setArg_busy (i : Fin 8) (v : Word) (s : State) : (setArg i v s).busy = s.busy := rfl
@[simp] theorem setArg_done (i : Fin 8) (v : Word) (s : State) : (setArg i v s).done = s.done := rfl
@[simp] theorem setArg_busywr (i : Fin 8) (v : Word) (s : State) : (setArg i v s).busywr = s.busywr := rfl
@[simp] theorem setArg_errcode (i : Fin 8) (v : Word) (s : State) : (setArg i v s).errcode = s.errcode := rfl
@[simp] theorem setArg_doneIe (i : Fin 8) (v : Word) (s : State) : (setArg i v s).doneIe = s.doneIe := rfl
@[simp] theorem setArg_args (i : Fin 8) (v : Word) (s : State) : (setArg i v s).args = s.args.set i v := rfl
@[simp] theorem setArg_latch (i : Fin 8) (v : Word) (s : State) : (setArg i v s).latch = s.latch := rfl
@[simp] theorem setArg_mem (i : Fin 8) (v : Word) (s : State) : (setArg i v s).mem = s.mem := rfl
@[simp] theorem setArg_host (i : Fin 8) (v : Word) (s : State) : (setArg i v s).host = s.host := rfl
@[simp] theorem setArg_turns (i : Fin 8) (v : Word) (s : State) : (setArg i v s).turns = s.turns := rfl
@[simp] theorem setArg_draws (i : Fin 8) (v : Word) (s : State) : (setArg i v s).draws = s.draws := rfl
@[simp] theorem setArg_bufSize (i : Fin 8) (v : Word) (s : State) : (setArg i v s).bufSize = s.bufSize := rfl

@[simp] theorem drawn_bufsz (n : Nat) (s : State) : (drawn n s).bufsz = s.bufsz := rfl
@[simp] theorem drawn_cmd (n : Nat) (s : State) : (drawn n s).cmd = s.cmd := rfl
@[simp] theorem drawn_busy (n : Nat) (s : State) : (drawn n s).busy = s.busy := rfl
@[simp] theorem drawn_done (n : Nat) (s : State) : (drawn n s).done = s.done := rfl
@[simp] theorem drawn_busywr (n : Nat) (s : State) : (drawn n s).busywr = s.busywr := rfl
@[simp] theorem drawn_errcode (n : Nat) (s : State) : (drawn n s).errcode = s.errcode := rfl
@[simp] theorem drawn_doneIe (n : Nat) (s : State) : (drawn n s).doneIe = s.doneIe := rfl
@[simp] theorem drawn_args (n : Nat) (s : State) : (drawn n s).args = s.args := rfl
@[simp] theorem drawn_latch (n : Nat) (s : State) : (drawn n s).latch = s.latch := rfl
@[simp] theorem drawn_mem (n : Nat) (s : State) : (drawn n s).mem = s.mem := rfl
@[simp] theorem drawn_host (n : Nat) (s : State) : (drawn n s).host = s.host := rfl
@[simp] theorem drawn_turns (n : Nat) (s : State) : (drawn n s).turns = s.turns := rfl
@[simp] theorem drawn_draws (n : Nat) (s : State) : (drawn n s).draws = s.draws + n := rfl
@[simp] theorem drawn_bufSize (n : Nat) (s : State) : (drawn n s).bufSize = s.bufSize := rfl

@[simp] theorem memWrite_bufsz (a : Nat) (B : Bytes) (s : State) : (memWrite a B s).bufsz = s.bufsz := rfl
@[simp] theorem memWrite_cmd (a : Nat) (B : Bytes) (s : State) : (memWrite a B s).cmd = s.cmd := rfl
@[simp] theorem memWrite_busy (a : Nat) (B : Bytes) (s : State) : (memWrite a B s).busy = s.busy := rfl
@[simp] theorem memWrite_done (a : Nat) (B : Bytes) (s : State) : (memWrite a B s).done = s.done := rfl
@[simp] theorem memWrite_busywr (a : Nat) (B : Bytes) (s : State) : (memWrite a B s).busywr = s.busywr := rfl
@[simp] theorem memWrite_errcode (a : Nat) (B : Bytes) (s : State) : (memWrite a B s).errcode = s.errcode := rfl
@[simp] theorem memWrite_doneIe (a : Nat) (B : Bytes) (s : State) : (memWrite a B s).doneIe = s.doneIe := rfl
@[simp] theorem memWrite_args (a : Nat) (B : Bytes) (s : State) : (memWrite a B s).args = s.args := rfl
@[simp] theorem memWrite_latch (a : Nat) (B : Bytes) (s : State) : (memWrite a B s).latch = s.latch := rfl
@[simp] theorem memWrite_mem (a : Nat) (B : Bytes) (s : State) : (memWrite a B s).mem = Memory.writeBytes s.mem a B := rfl
@[simp] theorem memWrite_host (a : Nat) (B : Bytes) (s : State) : (memWrite a B s).host = s.host := rfl
@[simp] theorem memWrite_turns (a : Nat) (B : Bytes) (s : State) : (memWrite a B s).turns = s.turns := rfl
@[simp] theorem memWrite_draws (a : Nat) (B : Bytes) (s : State) : (memWrite a B s).draws = s.draws := rfl
@[simp] theorem memWrite_bufSize (a : Nat) (B : Bytes) (s : State) : (memWrite a B s).bufSize = s.bufSize := rfl

@[simp] theorem blockReset_bufsz (s : State) : (blockReset s).bufsz = s.bufsz := rfl
@[simp] theorem blockReset_cmd (s : State) : (blockReset s).cmd = 0#32 := rfl
@[simp] theorem blockReset_busy (s : State) : (blockReset s).busy = false := rfl
@[simp] theorem blockReset_done (s : State) : (blockReset s).done = false := rfl
@[simp] theorem blockReset_busywr (s : State) : (blockReset s).busywr = false := rfl
@[simp] theorem blockReset_errcode (s : State) : (blockReset s).errcode = .ok := rfl
@[simp] theorem blockReset_doneIe (s : State) : (blockReset s).doneIe = false := rfl
@[simp] theorem blockReset_args (s : State) : (blockReset s).args = ArgFile.zero := rfl
@[simp] theorem blockReset_latch (s : State) : (blockReset s).latch = { cmd := 0#32, arg := ArgFile.zero } := rfl
@[simp] theorem blockReset_mem (s : State) : (blockReset s).mem = [] := rfl
@[simp] theorem blockReset_host (s : State) : (blockReset s).host = s.host := rfl
@[simp] theorem blockReset_turns (s : State) : (blockReset s).turns = s.turns := rfl
@[simp] theorem blockReset_draws (s : State) : (blockReset s).draws = s.draws := rfl
@[simp] theorem blockReset_bufSize (s : State) : (blockReset s).bufSize = s.bufSize := rfl

@[simp] theorem answer_bufsz (r : Reply) (s : State) : (answer r s).bufsz = s.bufsz := rfl
@[simp] theorem answer_cmd (r : Reply) (s : State) : (answer r s).cmd = s.cmd := rfl
@[simp] theorem answer_busy (r : Reply) (s : State) : (answer r s).busy = s.busy := rfl
@[simp] theorem answer_done (r : Reply) (s : State) : (answer r s).done = s.done := rfl
@[simp] theorem answer_busywr (r : Reply) (s : State) : (answer r s).busywr = s.busywr := rfl
@[simp] theorem answer_errcode (r : Reply) (s : State) : (answer r s).errcode = s.errcode := rfl
@[simp] theorem answer_doneIe (r : Reply) (s : State) : (answer r s).doneIe = s.doneIe := rfl
@[simp] theorem answer_args (r : Reply) (s : State) : (answer r s).args = s.args := rfl
@[simp] theorem answer_latch (r : Reply) (s : State) : (answer r s).latch = s.latch := rfl
@[simp] theorem answer_mem (r : Reply) (s : State) : (answer r s).mem = s.mem := rfl
@[simp] theorem answer_host (r : Reply) (s : State) : (answer r s).host = { s.host with replies := r :: s.host.replies } := rfl
@[simp] theorem answer_turns (r : Reply) (s : State) : (answer r s).turns = s.turns := rfl
@[simp] theorem answer_draws (r : Reply) (s : State) : (answer r s).draws = s.draws := rfl
@[simp] theorem answer_bufSize (r : Reply) (s : State) : (answer r s).bufSize = s.bufSize := rfl

@[simp] theorem hostGoto_bufsz (t : Nat) (s : State) : (hostGoto t s).bufsz = s.bufsz := rfl
@[simp] theorem hostGoto_cmd (t : Nat) (s : State) : (hostGoto t s).cmd = s.cmd := rfl
@[simp] theorem hostGoto_busy (t : Nat) (s : State) : (hostGoto t s).busy = s.busy := rfl
@[simp] theorem hostGoto_done (t : Nat) (s : State) : (hostGoto t s).done = s.done := rfl
@[simp] theorem hostGoto_busywr (t : Nat) (s : State) : (hostGoto t s).busywr = s.busywr := rfl
@[simp] theorem hostGoto_errcode (t : Nat) (s : State) : (hostGoto t s).errcode = s.errcode := rfl
@[simp] theorem hostGoto_doneIe (t : Nat) (s : State) : (hostGoto t s).doneIe = s.doneIe := rfl
@[simp] theorem hostGoto_args (t : Nat) (s : State) : (hostGoto t s).args = s.args := rfl
@[simp] theorem hostGoto_latch (t : Nat) (s : State) : (hostGoto t s).latch = s.latch := rfl
@[simp] theorem hostGoto_mem (t : Nat) (s : State) : (hostGoto t s).mem = s.mem := rfl
@[simp] theorem hostGoto_host (t : Nat) (s : State) : (hostGoto t s).host = { s.host with pc := t } := rfl
@[simp] theorem hostGoto_turns (t : Nat) (s : State) : (hostGoto t s).turns = s.turns := rfl
@[simp] theorem hostGoto_draws (t : Nat) (s : State) : (hostGoto t s).draws = s.draws := rfl
@[simp] theorem hostGoto_bufSize (t : Nat) (s : State) : (hostGoto t s).bufSize = s.bufSize := rfl

@[simp] theorem keepStatus_bufsz (v : Word) (s : State) : (keepStatus v s).bufsz = s.bufsz := rfl
@[simp] theorem keepStatus_cmd (v : Word) (s : State) : (keepStatus v s).cmd = s.cmd := rfl
@[simp] theorem keepStatus_busy (v : Word) (s : State) : (keepStatus v s).busy = s.busy := rfl
@[simp] theorem keepStatus_done (v : Word) (s : State) : (keepStatus v s).done = s.done := rfl
@[simp] theorem keepStatus_busywr (v : Word) (s : State) : (keepStatus v s).busywr = s.busywr := rfl
@[simp] theorem keepStatus_errcode (v : Word) (s : State) : (keepStatus v s).errcode = s.errcode := rfl
@[simp] theorem keepStatus_doneIe (v : Word) (s : State) : (keepStatus v s).doneIe = s.doneIe := rfl
@[simp] theorem keepStatus_args (v : Word) (s : State) : (keepStatus v s).args = s.args := rfl
@[simp] theorem keepStatus_latch (v : Word) (s : State) : (keepStatus v s).latch = s.latch := rfl
@[simp] theorem keepStatus_mem (v : Word) (s : State) : (keepStatus v s).mem = s.mem := rfl
@[simp] theorem keepStatus_host (v : Word) (s : State) : (keepStatus v s).host = { s.host with lastStatus := v } := rfl
@[simp] theorem keepStatus_turns (v : Word) (s : State) : (keepStatus v s).turns = s.turns := rfl
@[simp] theorem keepStatus_draws (v : Word) (s : State) : (keepStatus v s).draws = s.draws := rfl
@[simp] theorem keepStatus_bufSize (v : Word) (s : State) : (keepStatus v s).bufSize = s.bufSize := rfl

@[simp] theorem setTurns_bufsz (ts : List Turn) (s : State) : (setTurns ts s).bufsz = s.bufsz := rfl
@[simp] theorem setTurns_cmd (ts : List Turn) (s : State) : (setTurns ts s).cmd = s.cmd := rfl
@[simp] theorem setTurns_busy (ts : List Turn) (s : State) : (setTurns ts s).busy = s.busy := rfl
@[simp] theorem setTurns_done (ts : List Turn) (s : State) : (setTurns ts s).done = s.done := rfl
@[simp] theorem setTurns_busywr (ts : List Turn) (s : State) : (setTurns ts s).busywr = s.busywr := rfl
@[simp] theorem setTurns_errcode (ts : List Turn) (s : State) : (setTurns ts s).errcode = s.errcode := rfl
@[simp] theorem setTurns_doneIe (ts : List Turn) (s : State) : (setTurns ts s).doneIe = s.doneIe := rfl
@[simp] theorem setTurns_args (ts : List Turn) (s : State) : (setTurns ts s).args = s.args := rfl
@[simp] theorem setTurns_latch (ts : List Turn) (s : State) : (setTurns ts s).latch = s.latch := rfl
@[simp] theorem setTurns_mem (ts : List Turn) (s : State) : (setTurns ts s).mem = s.mem := rfl
@[simp] theorem setTurns_host (ts : List Turn) (s : State) : (setTurns ts s).host = s.host := rfl
@[simp] theorem setTurns_turns (ts : List Turn) (s : State) : (setTurns ts s).turns = ts := rfl
@[simp] theorem setTurns_draws (ts : List Turn) (s : State) : (setTurns ts s).draws = s.draws := rfl
@[simp] theorem setTurns_bufSize (ts : List Turn) (s : State) : (setTurns ts s).bufSize = s.bufSize := rfl

end Sys2Proof.Machine
end

