-- ==== Sys2Proof/Laws/Ops.lean ====
section
/-! SUPPORT. What the shared operations of a command can do, said once: the checks, MemRead, the constant operand, and
the free bytes. -/

namespace Sys2Proof.Machine

/-! ## Ranges and checks (20_memory R70, R71, 60_exceptions R262) -/

theorem Range.overlaps_eq_false (r q : Range) : r.overlaps q = false ↔ r.disjoint q := by
  simp only [Range.overlaps, Range.disjoint, Bool.and_eq_false_iff, decide_eq_false_iff_not]
  omega

theorem Range.disjoint_comm {r q : Range} (h : r.disjoint q) : q.disjoint r := by
  unfold Range.disjoint at *; omega

theorem rangeFails_eq_false (size : Nat) (o : Operands) :
    rangeFails size o = false ↔ ∀ r ∈ o.outs ++ o.ins ++ o.inPlace, r.off + r.len ≤ size := by
  simp only [rangeFails, Bool.not_eq_false', List.all_eq_true, Range.inBounds, decide_eq_true_eq]

theorem outClashes_eq_false (o : Operands) (r : Range) :
    outClashes o r = false ↔ (∀ q ∈ o.ins, r.disjoint q) ∧ ∀ q ∈ o.inPlace, r = q ∨ r.disjoint q := by
  simp only [outClashes, Bool.or_eq_false_iff, List.any_eq_false, Bool.not_eq_true, ← Range.overlaps_eq_false,
    Bool.and_eq_false_iff, Bool.not_eq_false', beq_iff_eq]
  exact and_congr_right fun _ => forall₂_congr fun _ _ => or_comm

/-- For a row with one output range, no check fails iff LENGTH, RANGE and OVERLAP hold as the spec words them. -/
theorem checkArgs_eq_ok_one (size : Nat) (o : Operands) (r : Range) (hr : o.outs = [r]) :
    checkArgs size o = .ok ↔
      o.minLen ≤ o.len ∧ (∀ q ∈ [r] ++ o.ins ++ o.inPlace, q.off + q.len ≤ size) ∧
        (∀ q ∈ o.ins, r.disjoint q) ∧ ∀ q ∈ o.inPlace, r = q ∨ r.disjoint q := by
  rw [← outClashes_eq_false, ← hr, ← rangeFails_eq_false]
  have hov : overlapFails o = outClashes o r := by simp [overlapFails, hr, outsClash]
  simp only [checkArgs, lengthFails, hov, decide_eq_true_eq]
  constructor
  · intro h
    split at h
    · cases h
    split at h
    · cases h
    split at h
    · cases h
    · next h1 h2 h3 => exact ⟨by omega, by simpa using h2, by simpa using h3⟩
  · rintro ⟨h1, h2, h3⟩
    rw [if_neg (by omega), h2, h3]; rfl

/-- For a row with no output range, OVERLAP cannot fail. -/
theorem checkArgs_eq_ok_none (size : Nat) (o : Operands) (hr : o.outs = []) :
    checkArgs size o = .ok ↔ o.minLen ≤ o.len ∧ ∀ q ∈ o.ins ++ o.inPlace, q.off + q.len ≤ size := by
  have hrf := rangeFails_eq_false size o
  rw [hr, List.nil_append] at hrf
  rw [← hrf]
  have hov : overlapFails o = false := by simp [overlapFails, hr, outsClash]
  simp only [checkArgs, lengthFails, hov, decide_eq_true_eq]
  constructor
  · intro h
    split at h
    · cases h
    split at h
    · cases h
    · next h1 h2 => exact ⟨by omega, by simpa using h2⟩
  · rintro ⟨h1, h2⟩
    rw [if_neg (by omega), h2]; rfl

/-- The check answers OK or one of the three argument codes. -/
theorem checkArgs_cases (size : Nat) (o : Operands) :
    checkArgs size o = .ok ∨ checkArgs size o = .length ∨ checkArgs size o = .range ∨ checkArgs size o = .overlap := by
  unfold checkArgs; split <;> [simp; split] <;> [simp; split] <;> simp

theorem checked_of_ok {o : Operands} {s : State} {k : Result} (h : checkArgs s.bufSize o = .ok) : checked o s k = k := by
  rw [checked, h]

theorem checked_of_error {o : Operands} {s : State} {k : Result} (h : checkArgs s.bufSize o ≠ .ok) :
    checked o s k = .next (complete (checkArgs s.bufSize o) s) := by
  unfold checked; split
  · contradiction
  · rfl

/-- Everything `checked` can do. -/
theorem checked_cases (o : Operands) (s : State) (k : Result) :
    (checkArgs s.bufSize o = .ok ∧ checked o s k = k) ∨
      ∃ e, e ≠ .ok ∧ e ≠ .auth ∧ checkArgs s.bufSize o = e ∧ checked o s k = .next (complete e s) := by
  rcases checkArgs_cases s.bufSize o with h | h
  · exact .inl ⟨h, checked_of_ok h⟩
  · refine .inr ⟨_, ?_, ?_, rfl, checked_of_error ?_⟩ <;> rcases h with h | h | h <;> simp [h]

theorem memRead_of_some {s : State} {a : Word} {n : Nat} {B : Bytes} (k : Bytes → Result)
    (h : Memory.readBytes s.mem a.toNat n = some B) : memRead s a n k = k B := by
  rw [memRead, h]

/-- Everything MemRead can do (20_memory R64). -/
theorem memRead_cases (s : State) (a : Word) (n : Nat) (k : Bytes → Result) :
    (∃ B, Memory.readBytes s.mem a.toNat n = some B ∧ B.length = n ∧ memRead s a n k = k B) ∨
      (Memory.readBytes s.mem a.toNat n = none ∧ memRead s a n k = .fault .uninitRead) := by
  unfold memRead; split
  · next B h => exact .inl ⟨B, h, Memory.readBytes_length h, rfl⟩
  · next h => exact .inr ⟨h, rfl⟩

@[simp] theorem freeBytes_length (d n : Nat) : (freeBytes d n).length = n := by
  induction n generalizing d with
  | zero => rfl
  | succ n ih => simp [freeBytes, ih]

@[simp] theorem ArgFile.get_set_same (a : ArgFile) (i : Fin 8) (v : Word) : (a.set i v).get i = v := by
  fin_cases i <;> rfl

theorem ArgFile.get_set_other (a : ArgFile) {i j : Fin 8} (v : Word) (h : j ≠ i) : (a.set i v).get j = a.get j := by
  fin_cases i <;> fin_cases j <;> first | rfl | exact absurd rfl h

end Sys2Proof.Machine
end

