-- ==== Sys2Proof/Laws/Exec.lean ====
section
/-! SUPPORT. Everything a command can do, said once for all nineteen (45_control R252, R254, 60_exceptions R264). -/

namespace Sys2Proof.Machine

/-- How a command can end: the fault UninitRead; completion with an error code, which a check, an authentication command
or the explicit-counter form raised; or completion with OK and at most one MemWrite, of exactly the output range. -/
def CommandOutcome (i : Instr) (s : State) (r : Result) : Prop :=
  r = .fault .uninitRead ∨
  (∃ e, e ≠ .ok ∧
    (checkArgs s.bufSize (operandsOf i s.latch.arg) = e ∨
      (e = .auth ∧ (i = .poly1305Verify ∨ i = .boxOpenAfternm ∨ i = .boxDecryptSym)) ∨
      (e = .unsupported ∧ i.icBit = true)) ∧
    r = .next (complete e s)) ∨
  checkArgs s.bufSize (operandsOf i s.latch.arg) = .ok ∧
    ((operandsOf i s.latch.arg).outs = [] ∧ r = .next (complete .ok s) ∨
     ∃ q B d, (operandsOf i s.latch.arg).outs = [q] ∧ B.length = q.len ∧ q.off + q.len ≤ s.bufSize ∧
      r = .next (complete .ok (drawn d (memWrite q.off B s))))

theorem CommandOutcome.inside {i : Instr} {s : State} {q : Range}
    (hc : checkArgs s.bufSize (operandsOf i s.latch.arg) = .ok) (ho : (operandsOf i s.latch.arg).outs = [q]) :
    q.off + q.len ≤ s.bufSize :=
  ((checkArgs_eq_ok_one _ _ _ ho).mp hc).2.1 q (by simp)

theorem CommandOutcome.write {i s} {o l : Nat} {B : Bytes} (hc : checkArgs s.bufSize (operandsOf i s.latch.arg) = .ok)
    (ho : (operandsOf i s.latch.arg).outs = [⟨o, l⟩]) (hl : B.length = l) :
    CommandOutcome i s (succeed (memWrite o B s)) :=
  .inr (.inr ⟨hc, .inr ⟨⟨o, l⟩, B, 0, ho, hl, CommandOutcome.inside hc ho, rfl⟩⟩)

theorem CommandOutcome.checked {i s o k} (ho : o = operandsOf i s.latch.arg)
    (hk : checkArgs s.bufSize (operandsOf i s.latch.arg) = .ok → CommandOutcome i s k) :
    CommandOutcome i s (checked o s k) := by
  subst ho
  rcases checked_cases (operandsOf i s.latch.arg) s k with ⟨h, hh⟩ | ⟨e, he, ha, hce, hh⟩
  · rw [hh]; exact hk h
  · rw [hh]; exact .inr (.inl ⟨e, he, .inl hce, rfl⟩)

theorem CommandOutcome.memRead {i s a n k}
    (hk : ∀ B : Bytes, Memory.readBytes s.mem a.toNat n = some B → B.length = n → CommandOutcome i s (k B)) :
    CommandOutcome i s (memRead s a n k) := by
  rcases memRead_cases s a n k with ⟨B, h, hl, hh⟩ | ⟨_, hh⟩
  · rw [hh]; exact hk B h hl
  · rw [hh]; exact .inl rfl

theorem CommandOutcome.raise {i s e} (he : e ≠ .ok)
    (ha : (e = .auth ∧ (i = .poly1305Verify ∨ i = .boxOpenAfternm ∨ i = .boxDecryptSym)) ∨
      (e = .unsupported ∧ i.icBit = true)) :
   CommandOutcome i s (raiseErr e s) := .inr (.inl ⟨e, he, .inr ha, rfl⟩)

/-- Everything a command can do. -/
theorem exec_outcome (i : Instr) (s : State) : CommandOutcome i s (exec i s) := by
  cases i with
  | nop => exact .inr (.inr ⟨rfl, .inl ⟨rfl, rfl⟩⟩)
  | clamp => exact .checked rfl fun hc => .memRead fun _ _ hk => .write hc rfl (by simpa using hk)
  | x25519Raw => exact .checked rfl fun hc => .memRead fun _ _ _ => .memRead fun _ _ _ => .write hc rfl (by simp)
  | x25519 => exact .checked rfl fun hc => .memRead fun _ _ _ => .memRead fun _ _ _ => .write hc rfl (by simp)
  | x25519Base => exact .checked rfl fun hc => .memRead fun _ _ _ => .write hc rfl (by simp)
  | salsa20Rounds alt =>
    refine .checked rfl fun hc => .memRead fun _ _ _ => .memRead fun _ _ _ => ?_
    unfold readConstant; split
    · exact .memRead fun _ _ _ => .write hc rfl (by simp)
    · exact .write hc rfl (by simp)
  | salsa20Block alt =>
    refine .checked rfl fun hc => .memRead fun _ _ _ => .memRead fun _ _ _ => ?_
    unfold readConstant; split
    · exact .memRead fun _ _ _ => .write hc rfl (by simp)
    · exact .write hc rfl (by simp)
  | hsalsa20 alt =>
    refine .checked rfl fun hc => .memRead fun _ _ _ => .memRead fun _ _ _ => ?_
    unfold readConstant; split
    · exact .memRead fun _ _ _ => .write hc rfl (by simp)
    · exact .write hc rfl (by simp)
  | salsa20Xor ic =>
    show CommandOutcome _ s (execSalsa20Xor ic s)
    unfold execSalsa20Xor; split
    · next hic => exact .raise (by decide) (.inr ⟨rfl, hic⟩)
    · exact .checked rfl fun hc => .memRead fun _ _ h1 => .memRead fun _ _ _ => .memRead fun _ _ _ =>
        .write hc rfl (by simp [h1])
  | xsalsa20Xor ic =>
    show CommandOutcome _ s (execXsalsa20Xor ic s)
    unfold execXsalsa20Xor; split
    · next hic => exact .raise (by decide) (.inr ⟨rfl, hic⟩)
    · exact .checked rfl fun hc => .memRead fun _ _ h1 => .memRead fun _ _ _ => .memRead fun _ _ _ =>
        .write hc rfl (by simp [h1])
  | salsa20Stream ic =>
    show CommandOutcome _ s (execSalsa20Stream ic s)
    unfold execSalsa20Stream; split
    · next hic => exact .raise (by decide) (.inr ⟨rfl, hic⟩)
    · exact .checked rfl fun hc => .memRead fun _ _ _ => .memRead fun _ _ _ => .write hc rfl (by simp)
  | xsalsa20Stream ic =>
    show CommandOutcome _ s (execXsalsa20Stream ic s)
    unfold execXsalsa20Stream; split
    · next hic => exact .raise (by decide) (.inr ⟨rfl, hic⟩)
    · exact .checked rfl fun hc => .memRead fun _ _ _ => .memRead fun _ _ _ => .write hc rfl (by simp)
  | poly1305 => exact .checked rfl fun hc => .memRead fun _ _ _ => .memRead fun _ _ _ => .write hc rfl (by simp)
  | poly1305Verify =>
    refine .checked rfl fun hc => .memRead fun _ _ _ => .memRead fun _ _ _ => .memRead fun _ _ _ => ?_
    split
    · exact .inr (.inr ⟨hc, .inl ⟨rfl, rfl⟩⟩)
    · exact .raise (by decide) (by simp)
  | boxBeforenm => exact .checked rfl fun hc => .memRead fun _ _ _ => .memRead fun _ _ _ => .write hc rfl (by simp)
  | boxAfternm =>
    refine .checked rfl fun hc => .memRead fun _ _ h1 => .memRead fun _ _ _ => .memRead fun _ _ _ => ?_
    refine .inr (.inr ⟨hc, .inr ⟨_, _, 16, rfl, ?_, CommandOutcome.inside hc rfl, rfl⟩⟩)
    have := ((checkArgs_eq_ok_one _ _ _ rfl).mp hc).1
    rw [boxAfternm_length _ _ _ _ (by simp), h1]
    rw [h1]; exact this
  | boxOpenAfternm =>
    refine .checked rfl fun hc => .memRead fun _ _ h1 => .memRead fun _ _ _ => .memRead fun _ _ _ => ?_
    have := ((checkArgs_eq_ok_one _ _ _ rfl).mp hc).1
    split
    · next R hR => exact .write hc rfl (by rw [boxOpenAfternm_length _ hR, h1]; rw [h1]; exact this)
    · exact .raise (by decide) (by simp)
  | boxEncryptSym =>
    exact .checked rfl fun hc => .memRead fun _ _ h1 => .memRead fun _ _ _ => .memRead fun _ _ _ =>
      .write hc rfl (by rw [boxEncryptSym_length, h1])
  | boxDecryptSym =>
    refine .checked rfl fun hc => .memRead fun _ _ h1 => .memRead fun _ _ _ => .memRead fun _ _ _ => ?_
    have := ((checkArgs_eq_ok_one _ _ _ rfl).mp hc).1
    split
    · next R hR => exact .write hc rfl (by rw [boxDecryptSym_length _ hR, h1]; rw [h1]; exact this)
    · exact .raise (by decide) (by simp)

/-- A command whose check fails completes with the code the check answers (60_exceptions R262). -/
theorem exec_of_check_error (i : Instr) (s : State) (hi : i.icBit = false)
    (h : checkArgs s.bufSize (operandsOf i s.latch.arg) ≠ .ok) :
    exec i s = .next (complete (checkArgs s.bufSize (operandsOf i s.latch.arg)) s) := by
  cases i <;> (try (rename_i b; cases b)) <;>
    first | exact checked_of_error h | cases hi

/-- Every row of the operand table has at most one output range (30_encoding R97). -/
theorem operandsOf_outs (i : Instr) (a : ArgFile) : (operandsOf i a).outs = [] ∨ ∃ q, (operandsOf i a).outs = [q] := by
  cases i <;> first | exact .inl rfl | exact .inr ⟨_, rfl⟩

end Sys2Proof.Machine
end

