-- ==== Sys2Proof/Laws/Field.lean ====
section
/-! SUPPORT. The laws of the field primitives: what square and multiply computes, and that the field prime is prime
(40_field R130, R138). -/

namespace Sys2Proof.Machine

/-- Square and multiply gives `acc * b^e` modulo m, for an exponent its fuel covers. -/
theorem powMod_mod (m fuel b e acc : Nat) (h : e < 2 ^ fuel) : powMod m fuel b e acc % m = acc * b ^ e % m := by
  induction fuel generalizing b e acc with
  | zero => obtain rfl : e = 0 := by simpa using h
            simp [powMod]
  | succ n ih =>
    rw [powMod, ih _ _ _ (by rw [pow_succ] at h; omega)]
    have hb : (b * b % m) ^ (e / 2) ≡ (b ^ 2) ^ (e / 2) [MOD m] := by
      rw [pow_two]; exact (Nat.mod_modEq _ _).pow _
    have he : b ^ e = b ^ (e % 2) * (b ^ 2) ^ (e / 2) := by rw [← pow_mul, ← pow_add]; congr 1; omega
    show _ ≡ _ [MOD m]
    rw [he]
    rcases Nat.mod_two_eq_zero_or_one e with h0 | h1
    · rw [h0, if_neg (by decide), pow_zero, one_mul]; exact hb.mul_left _
    · rw [h1, if_pos rfl, pow_one, ← mul_assoc]; exact (Nat.mod_modEq _ _).mul hb

theorem fieldP_pos : 0 < fieldP := by decide

/-! ## Primality: a certificate by Lucas' test for 2^255 - 19 and for each large factor -/

theorem natCast_pow_eq_one_iff (p a k : ℕ) : ((a : ZMod p) ^ k = 1) ↔ a ^ k % p = 1 % p := by
  rw [← Nat.cast_pow, ← Nat.cast_one (R := ZMod p), ZMod.natCast_eq_natCast_iff]; rfl

/-- Lucas' test for a base `a` and the factors of p - 1, as arithmetic the kernel evaluates. -/
def lucasTest (p a : Nat) (fs : List Nat) : Bool :=
  decide (p - 1 < 2 ^ 255) && decide (fs.prod = p - 1) && decide (powMod p 255 a (p - 1) 1 % p = 1 % p) &&
    fs.all fun q => decide (powMod p 255 a ((p - 1) / q) 1 % p ≠ 1 % p)

theorem prime_of_lucasTest {p a : ℕ} (fs : List ℕ) (h : lucasTest p a fs = true) (hp : ∀ q ∈ fs, q.Prime) :
    p.Prime := by
  simp only [lucasTest, Bool.and_eq_true, decide_eq_true_eq, List.all_eq_true] at h
  obtain ⟨⟨⟨hlt, hprod⟩, ha⟩, hd⟩ := h
  rw [powMod_mod _ _ _ _ _ hlt, one_mul] at ha
  refine lucas_primality p (a : ZMod p) ((natCast_pow_eq_one_iff p a _).mpr ha) fun q hq hqd => ?_
  rw [Ne, natCast_pow_eq_one_iff]
  rw [← hprod, hq.prime.dvd_prod_iff] at hqd
  obtain ⟨r, hr, hqr⟩ := hqd
  rw [(Nat.prime_dvd_prime_iff_eq hq (hp r hr)).mp hqr]
  have := hd r hr
  rwa [powMod_mod _ _ _ _ _ (lt_of_le_of_lt (Nat.div_le_self _ _) hlt), one_mul] at this

theorem prime_factor_1 : Nat.Prime 2773320623 :=
  prime_of_lucasTest (a := 5)
    [2, 2437, 569003]
    (by decide +kernel) (by
      simp only [List.forall_mem_cons, List.not_mem_nil, false_implies, implies_true, and_true]
      exact ⟨by norm_num, by norm_num, by norm_num⟩)

theorem prime_factor_2 : Nat.Prime 72106336199 :=
  prime_of_lucasTest (a := 7)
    [2, 13, 2773320623]
    (by decide +kernel) (by
      simp only [List.forall_mem_cons, List.not_mem_nil, false_implies, implies_true, and_true]
      exact ⟨by norm_num, by norm_num, prime_factor_1⟩)

theorem prime_factor_3 : Nat.Prime 1919519569386763 :=
  prime_of_lucasTest (a := 2)
    [2, 3, 7, 19, 47, 47, 127, 8574133]
    (by decide +kernel) (by
      simp only [List.forall_mem_cons, List.not_mem_nil, false_implies, implies_true, and_true]
      exact ⟨by norm_num, by norm_num, by norm_num, by norm_num, by norm_num, by norm_num, by norm_num, by norm_num⟩)

theorem prime_factor_4 : Nat.Prime 31757755568855353 :=
  prime_of_lucasTest (a := 10)
    [2, 2, 2, 3, 31, 107, 223, 4153, 430751]
    (by decide +kernel) (by
      simp only [List.forall_mem_cons, List.not_mem_nil, false_implies, implies_true, and_true]
      exact ⟨by norm_num, by norm_num, by norm_num, by norm_num, by norm_num, by norm_num, by norm_num, by norm_num, by norm_num⟩)

theorem prime_factor_5 : Nat.Prime 75445702479781427272750846543864801 :=
  prime_of_lucasTest (a := 7)
    [2, 2, 2, 2, 2, 3, 3, 5, 5, 75707, 72106336199, 1919519569386763]
    (by decide +kernel) (by
      simp only [List.forall_mem_cons, List.not_mem_nil, false_implies, implies_true, and_true]
      exact ⟨by norm_num, by norm_num, by norm_num, by norm_num, by norm_num, by norm_num, by norm_num, by norm_num, by norm_num, by norm_num, prime_factor_2, prime_factor_3⟩)

theorem prime_factor_6 : Nat.Prime 74058212732561358302231226437062788676166966415465897661863160754340907 :=
  prime_of_lucasTest (a := 2)
    [2, 3, 353, 57467, 132049, 1923133, 31757755568855353, 75445702479781427272750846543864801]
    (by decide +kernel) (by
      simp only [List.forall_mem_cons, List.not_mem_nil, false_implies, implies_true, and_true]
      exact ⟨by norm_num, by norm_num, by norm_num, by norm_num, by norm_num, by norm_num, prime_factor_4, prime_factor_5⟩)

/-- 2^255 - 19 is prime. -/
theorem fieldP_prime : Nat.Prime fieldP :=
  prime_of_lucasTest (a := 2)
    [2, 2, 3, 65147, 74058212732561358302231226437062788676166966415465897661863160754340907]
    (by decide +kernel) (by
      simp only [List.forall_mem_cons, List.not_mem_nil, false_implies, implies_true, and_true]
      exact ⟨by norm_num, by norm_num, by norm_num, by norm_num, prime_factor_6⟩)

end Sys2Proof.Machine
end

