-- ==== Sys2Proof/Laws/Host.lean ====
section
/-! SUPPORT. What a host access and a host step can do, said once (20_memory R61 to R68, 30_encoding R103, R105). -/

namespace Sys2Proof.Machine

theorem inBuf_iff (s : State) (h n : Nat) : inBuf s h n = true ↔ bufBase ≤ h ∧ h + n ≤ bufBase + s.bufSize := by
  simp only [inBuf, Bool.and_eq_true, decide_eq_true_eq]

/-- A reserved offset is no register (10_state R23). -/
theorem regAt_reserved {h : Nat} (hh : h = 0x00C ∨ h = 0x01C ∨ 0x040 ≤ h ∧ h ≤ 0xFFC) : regAt h = none := by
  unfold regAt; split <;> first | rfl | omega

/-- The offset of ARGi (10_state R20). -/
theorem regAt_arg (i : Fin 8) :
    regAt (0x020 + 4 * i.val) = some (.arg i) ∧ (0x020 + 4 * i.val) % 4 = 0 ∧ 0x020 + 4 * i.val < bufBase := by
  fin_cases i <;> decide

theorem regAt_cmd {h : Nat} (hr : regAt h = some .cmd) : h = 0x010 := by
  unfold regAt at hr; split at hr <;> first | rfl | cases hr
/-- Only the offset of ARGi names ARGi (10_state R20). -/
theorem regAt_eq_arg {h : Nat} {i : Fin 8} (hr : regAt h = some (.arg i)) : h = 0x020 + 4 * i.val := by
  unfold regAt at hr; split at hr <;> cases hr <;> rfl
theorem regAt_status {h : Nat} (hr : regAt h = some .status) : h = 0x014 := by
  unfold regAt at hr; split at hr <;> first | rfl | cases hr

/-- The fields of the word a STATUS read answers, and its reserved bits (10_state R23, R27). -/
theorem statusWord_fields (s : State) :
    statusWord s &&& 0xFFFF00F8#32 = 0#32 ∧ (statusWord s).getLsbD 0 = s.busy ∧ (statusWord s).getLsbD 1 = s.done ∧
      (statusWord s).getLsbD 2 = s.busywr ∧ (statusWord s).extractLsb' 8 8 = s.errcode.number := by
  have all : ∀ (a b c : Bool) (e : ErrCode),
      let w := bitAt a 0 ||| bitAt b 1 ||| bitAt c 2 ||| e.number.setWidth 32 <<< 8
      w &&& 0xFFFF00F8#32 = 0#32 ∧ w.getLsbD 0 = a ∧ w.getLsbD 1 = b ∧ w.getLsbD 2 = c ∧
        w.extractLsb' 8 8 = e.number := by
    intro a b c e; cases a <;> cases b <;> cases c <;> cases e <;> decide
  exact all s.busy s.done s.busywr s.errcode

/-- Everything a register write can do. -/
theorem writeReg_cases (r : Option RegName) (v : Word) (s : State) :
    writeReg r v s = s ∨
    (s.busy = true ∧ (r = some .cmd ∨ ∃ i, r = some (.arg i)) ∧ writeReg r v s = dropWrite s) ∨
    (s.busy = false ∧ r = some .cmd ∧ writeReg r v s = issue v s) ∨
    (r = some .status ∧ writeReg r v s = writeStatus v s) ∨
    writeReg r v s = writeIrqEn v s ∨ (s.busy = false ∧ ∃ i, writeReg r v s = setArg i v s) := by
  have aux : ∀ t : State, (s.busy = true ∧ (if s.busy then dropWrite s else t) = dropWrite s) ∨
      (s.busy = false ∧ (if s.busy then dropWrite s else t) = t) := by
    intro t; cases s.busy <;> simp
  cases r with
  | none => exact .inl rfl
  | some r =>
    cases r with
    | id => exact .inl rfl
    | version => exact .inl rfl
    | bufsz => exact .inl rfl
    | cmd =>
      rcases aux (issue v s) with ⟨hb, h⟩ | ⟨hb, h⟩
      exacts [.inr (.inl ⟨hb, .inl rfl, h⟩), .inr (.inr (.inl ⟨hb, rfl, h⟩))]
    | status => exact .inr (.inr (.inr (.inl ⟨rfl, rfl⟩)))
    | irqEn => exact .inr (.inr (.inr (.inr (.inl rfl))))
    | arg i =>
      rcases aux (setArg i v s) with ⟨hb, h⟩ | ⟨hb, h⟩
      exacts [.inr (.inl ⟨hb, .inr ⟨i, rfl⟩, h⟩), .inr (.inr (.inr (.inr (.inr ⟨hb, i, h⟩))))]

/-- Everything a read of BUF that goes on can do. -/
theorem readBuf_cases {a n : Nat} {f : Bytes → Reply} {s t : State} (h : readBuf a n f s = .next t) :
    (s.busy = true ∧ t = answer (f (freeBytes s.draws n)) (drawn n s)) ∨
      (s.busy = false ∧ ∃ B, Memory.readBytes s.mem a n = some B ∧ t = answer (f B) s) := by
  unfold readBuf at h
  split at h
  · next hb => injection h with h; exact .inl ⟨hb, h.symm⟩
  · next hb =>
    split at h
    · next B hB => injection h with h; exact .inr ⟨by simpa using hb, B, hB, h.symm⟩
    · cases h

/-- Everything a host access that goes on can do: answer a read, nothing, a dropped write of CMD, an ARG or
BUF, an issue, a STATUS or IRQ_EN write, an ARG write, or a write of bytes of BUF. -/
theorem hostAccess_cases {a : HostAccess} {s t : State} (h : hostAccess a s = .next t) :
    (∃ r n, t = answer r (drawn n s)) ∨ t = s ∨
    (s.busy = true ∧ s.operandWrite a ∧ t = dropWrite s) ∨
    (s.busy = false ∧ ∃ w, a = .wr32 0x010 w ∧ t = issue w s) ∨
    (∃ v, a = .wr32 0x014 v ∧ t = writeStatus v s) ∨ (∃ v, t = writeIrqEn v s) ∨
    (s.busy = false ∧ ∃ i v, t = setArg i v s) ∨
    (s.busy = false ∧ ∃ h o B, ((∃ v, a = .wr8 h v) ∨ ∃ v, a = .wr32 h v) ∧ 0x1000 ≤ h ∧
      o + B.length ≤ s.bufSize ∧ t = memWrite o B s) := by
  have inWindow : ∀ {h n}, bufBase ≤ h ∧ h + (n + 1) ≤ bufBase + s.bufSize → 0x1000 ≤ h ∧ h < 0x1000 + s.bufSize := by
    unfold bufBase; omega
  cases a with
  | rd8 h' =>
    simp only [hostAccess] at h; split at h
    · rcases readBuf_cases h with ⟨_, rfl⟩ | ⟨_, B, _, rfl⟩
      · exact .inl ⟨_, _, rfl⟩
      · exact .inl ⟨_, 0, rfl⟩
    · cases h
  | rd32 h' =>
    simp only [hostAccess] at h; split at h
    · split at h
      · injection h with h; subst h; exact .inl ⟨_, 0, rfl⟩
      split at h
      · rcases readBuf_cases h with ⟨_, rfl⟩ | ⟨_, B, _, rfl⟩
        · exact .inl ⟨_, _, rfl⟩
        · exact .inl ⟨_, 0, rfl⟩
      · cases h
    · cases h
  | wr8 h' v =>
    simp only [hostAccess] at h; split at h
    · next hi =>
      rw [inBuf_iff] at hi
      unfold writeBuf at h; split at h
      · next hb =>
        injection h with h
        exact .inr (.inr (.inl ⟨hb, .inr (.inr ⟨h', (inWindow hi).1, (inWindow hi).2, .inl ⟨v, rfl⟩⟩), h.symm⟩))
      · next hb =>
        injection h with h
        refine .inr (.inr (.inr (.inr (.inr (.inr (.inr
          ⟨by simpa using hb, h', _, _, .inl ⟨v, rfl⟩, hi.1, ?_, h.symm⟩))))))
        simp only [List.length_singleton]; omega
    · cases h
  | wr32 h' v =>
    simp only [hostAccess] at h; split at h
    · split at h
      · injection h with h; subst h
        rcases writeReg_cases (regAt h') v s with h | ⟨hb, hr, h⟩ | ⟨hb, hr, h⟩ | ⟨hr, h⟩ | h | ⟨hb, i, h⟩ <;> rw [h]
        · exact .inr (.inl rfl)
        · refine .inr (.inr (.inl ⟨hb, ?_, rfl⟩))
          rcases hr with hr | ⟨i, hr⟩
          · exact .inl ⟨v, by rw [regAt_cmd hr]⟩
          · exact .inr (.inl ⟨i, v, by rw [regAt_eq_arg hr]⟩)
        · rw [regAt_cmd hr]; exact .inr (.inr (.inr (.inl ⟨hb, _, rfl, rfl⟩)))
        · rw [regAt_status hr]; exact .inr (.inr (.inr (.inr (.inl ⟨_, rfl, rfl⟩))))
        · exact .inr (.inr (.inr (.inr (.inr (.inl ⟨_, rfl⟩)))))
        · exact .inr (.inr (.inr (.inr (.inr (.inr (.inl ⟨hb, _, _, rfl⟩))))))
      · split at h
        · next hi =>
          rw [inBuf_iff] at hi
          unfold writeBuf at h; split at h
          · next hb =>
            injection h with h
            exact .inr (.inr (.inl ⟨hb, .inr (.inr ⟨h', (inWindow hi).1, (inWindow hi).2, .inr ⟨v, rfl⟩⟩), h.symm⟩))
          · next hb =>
            injection h with h
            refine .inr (.inr (.inr (.inr (.inr (.inr (.inr
              ⟨by simpa using hb, h', _, _, .inr ⟨v, rfl⟩, hi.1, ?_, h.symm⟩))))))
            simp only [wordBytes_length]; omega
        · cases h
    · cases h
  | otherWidth b h' => cases h

/-- Everything a host step that goes on can do: move the host alone, or perform one access. -/
theorem hostStep_cases {s t : State} (h : hostStep s = .next t) :
   (∃ g, t = { s with host := g }) ∨ ∃ a, s.host.prog[s.host.pc]? = some (.access a) ∧ hostAccess a (hostGoto (s.host.pc + 1) s) = .next t := by
  unfold hostStep at h
  split at h
  · next op ho =>
    cases op with
    | access a => exact .inr ⟨a, ho, h⟩
    | wait =>
      simp only [hostOp] at h; split at h <;> (injection h with h; subst h; exact .inl ⟨_, rfl⟩)
    | jump l => injection h with h; subst h; exact .inl ⟨_, rfl⟩
    | jumpErr l => simp only [hostOp] at h; split at h <;> (injection h with h; subst h; exact .inl ⟨_, rfl⟩)
  · injection h with h; subst h; exact .inl ⟨s.host, rfl⟩

end Sys2Proof.Machine
end

