-- ==== Sys2Proof/Laws/PerInstr.lean ====
section
/-! SUPPORT. Statements made command by command: each command's word lies in its row of spec/opcode_table.json, and the
command is well formed (30_encoding R91, R93, R94, R98). -/

namespace Sys2Proof.Laws.EncodeInTable

/-- The command's word agrees with the match word of its table row wherever the row's mask is 1, it has no reserved bit
set, and the command is well formed. -/
def Statement (i : Instr) : Prop :=
  encode i &&& i.tableMask = i.tableMatch ∧ fieldRES (encode i) = 0#22 ∧ i.wellFormed = true

theorem nop : Statement .nop := ⟨by decide, by decide, by decide⟩

theorem clamp : Statement .clamp := ⟨by decide, by decide, by decide⟩

theorem x25519Raw : Statement .x25519Raw := ⟨by decide, by decide, by decide⟩

theorem x25519 : Statement .x25519 := ⟨by decide, by decide, by decide⟩

theorem x25519Base : Statement .x25519Base := ⟨by decide, by decide, by decide⟩

theorem salsa20Rounds (alt : Bool) : Statement (.salsa20Rounds alt) := by
  cases alt <;> exact ⟨by decide, by decide, by decide⟩

theorem salsa20Block (alt : Bool) : Statement (.salsa20Block alt) := by
  cases alt <;> exact ⟨by decide, by decide, by decide⟩

theorem hsalsa20 (alt : Bool) : Statement (.hsalsa20 alt) := by
  cases alt <;> exact ⟨by decide, by decide, by decide⟩

theorem salsa20Xor (ic : Bool) : Statement (.salsa20Xor ic) := by
  cases ic <;> exact ⟨by decide, by decide, by decide⟩

theorem xsalsa20Xor (ic : Bool) : Statement (.xsalsa20Xor ic) := by
  cases ic <;> exact ⟨by decide, by decide, by decide⟩

theorem salsa20Stream (ic : Bool) : Statement (.salsa20Stream ic) := by
  cases ic <;> exact ⟨by decide, by decide, by decide⟩

theorem xsalsa20Stream (ic : Bool) : Statement (.xsalsa20Stream ic) := by
  cases ic <;> exact ⟨by decide, by decide, by decide⟩

theorem poly1305 : Statement .poly1305 := ⟨by decide, by decide, by decide⟩

theorem poly1305Verify : Statement .poly1305Verify := ⟨by decide, by decide, by decide⟩

theorem boxBeforenm : Statement .boxBeforenm := ⟨by decide, by decide, by decide⟩

theorem boxAfternm : Statement .boxAfternm := ⟨by decide, by decide, by decide⟩

theorem boxOpenAfternm : Statement .boxOpenAfternm := ⟨by decide, by decide, by decide⟩

theorem boxEncryptSym : Statement .boxEncryptSym := ⟨by decide, by decide, by decide⟩

theorem boxDecryptSym : Statement .boxDecryptSym := ⟨by decide, by decide, by decide⟩

end Sys2Proof.Laws.EncodeInTable
end

