-- ==== Sys2Proof/Laws/Results.lean ====
section
/-! SUPPORT. Small laws of the result functions: successful completion, the tag compare, XOR with a keystream whose head
meets zeros, and the one-time key (42_salsa20 R177, 43_poly1305 R206, 44_box R221, R222, R230). -/

namespace Sys2Proof.Machine

/-- A command that writes one string and returns OK (45_control R252, R253). -/
theorem succeed_memWrite (a : Nat) (v : Bytes) (s : State) : succeed (memWrite a v s) =
    .next { s with busy := false, done := true, errcode := .ok, mem := Memory.writeBytes s.mem a v } := rfl

theorem foldl_or_eq_zero (l : Bytes) (a : Byte) : l.foldl (fun d x => d ||| x) a = 0#8 ↔ a = 0#8 ∧ ∀ x ∈ l, x = 0#8 := by
  induction l generalizing a with
  | nil => simp
  | cons y l ih =>
    rw [List.foldl_cons, ih]
    have : a ||| y = 0#8 ↔ a = 0#8 ∧ y = 0#8 := BitVec.or_eq_zero_iff
    simp [this, and_assoc]
/-- The compare of 43_poly1305 R206 is equality. -/
theorem tagsEqual_iff (T U : Bytes) (h : T.length = U.length) : tagsEqual T U = true ↔ T = U := by
  rw [tagsEqual, beq_iff_eq, tagDifference, foldl_or_eq_zero]
  induction T generalizing U with
  | nil => cases U <;> simp_all [xorBytes]
  | cons t T ih =>
    cases U with
    | nil => simp at h
    | cons u U =>
      have := ih U (by simpa using h)
      simp [xorBytes] at this ⊢
      intro _; exact this

theorem freeBytes_eq_map (d n : Nat) :
    freeBytes d n = (List.range n).map fun j => Config.freeByte (d + j) := by
  induction n generalizing d with
  | zero => rfl
  | succ n ih => rw [freeBytes, ih, List.range_succ_eq_map]; simp; intro a _; congr 1; omega

theorem xorBytes_append (A B S : Bytes) :
    xorBytes (A ++ B) S = xorBytes A (S.take A.length) ++ xorBytes B (S.drop A.length) := by
  induction A generalizing S with
  | nil => simp [xorBytes]
  | cons a A ih => cases S with
    | nil => simp [xorBytes]
    | cons s S => have := ih S; simp [xorBytes] at this ⊢; exact this

theorem xorBytes_zeros (S : Bytes) (n : Nat) (h : S.length = n) : xorBytes (zeros n) S = S := by
  subst h
  induction S with
  | nil => rfl
  | cons s S ih => simp [xorBytes, zeros, List.replicate_succ] at ih ⊢; exact ih

end Sys2Proof.Machine
end

