-- ==== Sys2Proof/Laws/Step.lean ====
section
/-! SUPPORT. What one step can do, said once (20_memory R77, 45_control R251), and that the memory keeps its canonical
form through it. -/

namespace Sys2Proof.Machine

/-- Everything an engine step that goes on leaves behind (45_control R251 to R254, 60_exceptions R264). -/
theorem engineStep_status {s t : State} (h : engineStep s = .next t) :
    t.busy = false ∧ t.done = true ∧ t.busywr = s.busywr ∧ (t.errcode ≠ .ok → t.mem = s.mem) := by
  unfold engineStep at h; split at h
  · injection h with h; subst h; exact ⟨rfl, rfl, rfl, fun _ => rfl⟩
  · next i _ =>
    rcases exec_outcome i s with hd | ⟨e, he, _, hd⟩ | ⟨_, ⟨ho, hd⟩ | ⟨q, B, d, ho, hl, hq, hd⟩⟩ <;> rw [h] at hd
    · cases hd
    all_goals injection hd with hd; subst hd
    · exact ⟨rfl, rfl, rfl, fun _ => rfl⟩
    · exact ⟨rfl, rfl, rfl, fun _ => rfl⟩
    · exact ⟨rfl, rfl, rfl, fun h => absurd rfl h⟩

/-- Everything a step that goes on can be: a reset, a passed turn of an idle engine, an engine step, or a host step. -/
theorem step_cases {s t : State} (h : step s = .next t) :
    ∃ ts, (s.turns = .reset :: ts ∧ t = blockReset (setTurns ts s)) ∨
     (s.turns = .engine :: ts ∧ s.busy = false ∧ t = setTurns ts s) ∨
     ((s.turns = [] ∧ ts = [] ∨ s.turns = .engine :: ts) ∧ s.busy = true ∧ engineStep (setTurns ts s) = .next t) ∨
     ((s.turns = [] ∧ ts = [] ∧ s.busy = false ∨ s.turns = .host :: ts) ∧ hostStep (setTurns ts s) = .next t) := by
  unfold step stepOnce at h
  split at h
  · next hn =>
    have e : setTurns [] s = s := by cases s; simp at hn; subst hn; rfl
    refine ⟨[], ?_⟩
    rw [e]
    split at h
    · next hb => exact .inr (.inr (.inl ⟨.inl ⟨hn, rfl⟩, hb, h⟩))
    · next hb => exact .inr (.inr (.inr ⟨.inl ⟨hn, rfl, by simpa using hb⟩, h⟩))
  · next x ts hn =>
    refine ⟨ts, ?_⟩
    cases x with
    | host => exact .inr (.inr (.inr ⟨.inr hn, h⟩))
    | engine =>
      simp only [takeTurn] at h; split at h
      · next hb => exact .inr (.inr (.inl ⟨.inr hn, hb, h⟩))
      · next hb => injection h with h; exact .inr (.inl ⟨hn, by simpa using hb, h.symm⟩)
    | reset => injection h with h; exact .inl ⟨hn, h.symm⟩

/-- A run's first step, for a step that goes on. -/
theorem core_run_next {n : Nat} {s t : State} (h : step s = .next t) :
    Host.Core.run core (n + 1) s = Host.Core.run core n t := by
  have unfolded : ∀ (M : Host.Core) (s : M.State), M.run (n + 1) s =
      (match M.step s with | .next t => M.run n t | .fault r => .fault r | .refused r => .refused r) := fun _ _ => rfl
  have h' : core.step s = .next t := h
  rw [unfolded core s, h']

/-- The memory of the state after reset is in canonical form, at any BUF_SIZE. -/
theorem resetOf_memOk (n : Word) : (State.resetOf n).memOk := ⟨rfl, rfl⟩

/-- A MemWrite inside BUF keeps the memory in canonical form. -/
theorem memWrite_memOk {s : State} {a : Nat} {B : Bytes} (h : s.memOk) (ha : a + B.length ≤ s.bufSize) :
    (memWrite a B s).memOk := ⟨Memory.writeBytes_wf _ _ h.1, Memory.writeBytes_inside B ha h.2⟩

end Sys2Proof.Machine
end

