-- ==== Sys2Proof/Tests/Slice0.lean ====
section
/-! SUPPORT. Tests of one step each, with expected values from spec/95_test_vectors.md, the refusals of WellFormed, and
for every statement with hypotheses a concrete state and operands that meet all of them. -/

namespace Sys2Proof.Tests

open Sys2Proof Sys2Proof.Machine

-- One theorem after the other: each evaluation thread takes memory of its own.
set_option Elab.async false

/-! ## Helpers -/

/-- The byte string of `n` bytes whose hex string, in memory order, is the number `v` (95_test_vectors, first lines). -/
def hex (n v : Nat) : Bytes := (leN n v).reverse

/-- The bytes `f, f + 1, ...` mod 256: the spec's `01..20` and its pattern. -/
def rising (f n : Nat) : Bytes := (List.range n).map fun i => BitVec.ofNat 8 (f + i)

/-- BUF with some byte strings written. -/
def memOf (l : List (Nat × Bytes)) : Memory := l.foldl (fun m p => Memory.writeBytes m p.1 p.2) []

/-- x[0], x[1], x[2], x[3], x[4], x[7]; x[5] and x[6] are 0. -/
def argsOf (a b c d e h : Nat) : ArgFile :=
  ⟨BitVec.ofNat 32 a, BitVec.ofNat 32 b, BitVec.ofNat 32 c, BitVec.ofNat 32 d, BitVec.ofNat 32 e, 0#32, 0#32,
    BitVec.ofNat 32 h⟩

/-- A block of BUF_SIZE 4096 in which the command word `w` was just issued: the engine's step is next. -/
def issued (w : Word) (m : Memory) (a : ArgFile) : State := issue w { State.reset with mem := m, args := a }

/-- STATUS and `n` bytes of BUF at `o` after a next state; none after a stop. -/
def seen (r : Result) (o n : Nat) : Option (Word × Option Bytes) :=
  match r with
  | .next t => some (statusWord t, Memory.readBytes t.mem o n)
  | _ => none

/-- The next state, none after a stop. -/
def nextOf (r : Result) : Option State :=
  match r with
  | .next t => some t
  | _ => none

theorem exists_next {r : Result} (h : (nextOf r).isSome = true) : ∃ t, r = .next t := by
  cases r with
  | next t => exact ⟨t, rfl⟩
  | fault _ => cases h
  | refused _ => cases h

/-- The fault, none elsewhere. -/
def faultOf (r : Result) : Option Fault :=
  match r with
  | .fault f => some f
  | _ => none

/-- The code a word that selects no form decodes to. -/
def decodeError (w : Word) : Option ErrCode :=
  match decode w with
  | .ok _ => none
  | .error e => some e

/-- The command a word decodes to. -/
def decoded (w : Word) : Option Instr :=
  match decode w with
  | .ok i => some i
  | .error _ => none

def kA : Bytes := hex 32 0x77076d0a7318a57d3c16c17251b26645df4c2f87ebc0992ab177fba51db92c2a
def pkB : Bytes := hex 32 0xde9edb7d7b7dc1b4d35b61c2ece435373f8343c85b78674dadfc7e146f882b4f
def u9 : Bytes := 9#8 :: zeros 31
def keyKB : Bytes := hex 32 0x1b27556473e985d462cd51197a9a46c76009549eac6474f206c4ee0844f68389
def nonce24 : Bytes := hex 24 0x69696ee955b62b73cd62bda875fc73d68219e0036b7a0b37
def boxB4 : Bytes := hex 18 0xcf49b1774c8cb11d259910ffe6493dc958f7

/-! ## Decoding: words written out bit by bit, RES, I, A, OP (30_encoding R91, R98) -/

theorem test_decode_shell_and_x25519 :
    decoded 0b0000000000000000000000_0_0_00000000#32 = some .nop ∧
    decoded 0b0000000000000000000000_0_0_00000001#32 = some .clamp ∧
    decoded 0b0000000000000000000000_0_0_00000010#32 = some .x25519Raw ∧
    decoded 0b0000000000000000000000_0_0_00000011#32 = some .x25519 ∧
    decoded 0b0000000000000000000000_0_0_00000100#32 = some .x25519Base := by decide

theorem test_decode_salsa20_core :
    decoded 0b0000000000000000000000_0_0_00010000#32 = some (.salsa20Rounds false) ∧
    decoded 0b0000000000000000000000_0_1_00010000#32 = some (.salsa20Rounds true) ∧
    decoded 0b0000000000000000000000_0_0_00010001#32 = some (.salsa20Block false) ∧
    decoded 0b0000000000000000000000_0_1_00010001#32 = some (.salsa20Block true) ∧
    decoded 0b0000000000000000000000_0_0_00010010#32 = some (.hsalsa20 false) ∧
    decoded 0b0000000000000000000000_0_1_00010010#32 = some (.hsalsa20 true) := by decide

theorem test_decode_salsa20_streams :
    decoded 0b0000000000000000000000_0_0_00010011#32 = some (.salsa20Xor false) ∧
    decoded 0b0000000000000000000000_1_0_00010011#32 = some (.salsa20Xor true) ∧
    decoded 0b0000000000000000000000_0_0_00010100#32 = some (.xsalsa20Xor false) ∧
    decoded 0b0000000000000000000000_1_0_00010100#32 = some (.xsalsa20Xor true) ∧
    decoded 0b0000000000000000000000_0_0_00010101#32 = some (.salsa20Stream false) ∧
    decoded 0b0000000000000000000000_1_0_00010101#32 = some (.salsa20Stream true) ∧
    decoded 0b0000000000000000000000_0_0_00010110#32 = some (.xsalsa20Stream false) ∧
    decoded 0b0000000000000000000000_1_0_00010110#32 = some (.xsalsa20Stream true) := by decide

theorem test_decode_poly1305_and_box :
    decoded 0b0000000000000000000000_0_0_00100000#32 = some .poly1305 ∧
    decoded 0b0000000000000000000000_0_0_00100001#32 = some .poly1305Verify ∧
    decoded 0b0000000000000000000000_0_0_00110000#32 = some .boxBeforenm ∧
    decoded 0b0000000000000000000000_0_0_00110001#32 = some .boxAfternm ∧
    decoded 0b0000000000000000000000_0_0_00110010#32 = some .boxOpenAfternm ∧
    decoded 0b0000000000000000000000_0_0_00110011#32 = some .boxEncryptSym ∧
    decoded 0b0000000000000000000000_0_0_00110100#32 = some .boxDecryptSym := by decide

/-- V1 to V9 of 95_test_vectors: the decoder's errors and their order. -/
theorem test_decode_errors_V1_to_V9 :
    decodeError 0x00000403#32 = some .reserved ∧ decodeError 0x80000000#32 = some .reserved ∧
    decodeError 0x00000005#32 = some .opcode ∧ decodeError 0x000000FF#32 = some .opcode ∧
    decodeError 0x00000017#32 = some .opcode ∧ decodeError 0x00000103#32 = some .flag ∧
    decodeError 0x00000212#32 = some .flag ∧ decodeError 0x00000300#32 = some .flag ∧
    decodeError 0x00000313#32 = some .flag := by decide

/-! ## Well-formedness: an ill-formed term for each check, refused -/

/-- The command word of a mnemonic 30_encoding R98 does not define. -/
theorem test_ill_formed_mnemonic : programWellFormed [.command 0x05#8 false false []] = false := by decide

/-- An access of "another width" whose width is a supported one. -/
theorem test_ill_formed_width :
    HostAccess.wellFormed (.otherWidth 8 0x1000) = false ∧ HostAccess.wellFormed (.otherWidth 32 0x1000) = false ∧
    HostAccess.wellFormed (.otherWidth 16 0x1000) = true := by decide

theorem test_ill_formed_undefined_label :
    programWellFormed [.label 0, .b 1] = false ∧ programWellFormed [.bErr 1] = false := by decide

theorem test_ill_formed_repeated_label : programWellFormed [.label 0, .wait, .label 0] = false := by decide

theorem test_illegal_buf_size :
    Config.legalBufSize 192 = false ∧ Config.legalBufSize 4095 = false ∧ Config.legalBufSize (2 ^ 24 + 64) = false ∧
    Config.legalBufSize 256 = true ∧ Config.legalBufSize 4096 = true ∧ Config.legalBufSize (2 ^ 24) = true := by decide

/-- A branch skips the line it jumps over; `clrdone` is a write of 2 to STATUS (30_encoding R105). -/
theorem test_assemble_branch_and_clrdone :
    assemble [.wait, .bErr 1, .clrdone, .label 1, .rd32 (.buf 0x10)] =
      some [.wait, .jumpErr 3, .access (.wr32 0x014 2#32), .access (.rd32 0x1010)] := by decide

/-! ## One step of each command on the vectors of 95_test_vectors -/

/-- Program 5: NOP ends with 0x00000002. -/
theorem test_nop_status : seen (step (issued 0x00#32 [] ArgFile.zero)) 0 0 = some (0x00000002#32, some []) := by
  decide +kernel

/-- X1: bits 0 to 2 and 255 cleared, bit 254 set. -/
theorem test_clamp_X1 :
    seen (step (issued 0x01#32 (memOf [(0x20, List.replicate 32 0xFF#8)]) (argsOf 0 0 0x20 0 0 0))) 0 32 =
      some (2#32, some (hex 32 0xf8ffffffffffffffffffffffffffffffffffffffffffffffffffffffffffff7f)) := by
  decide +kernel

/-- T1: scalar 2 on the base point, unclamped. -/
theorem test_x25519_raw_T1 :
    seen (step (issued 0x02#32 (memOf [(0x20, u9), (0x40, 2#8 :: zeros 31)]) (argsOf 0 0x20 0x40 0 0 0))) 0 32 =
      some (2#32, some (hex 32 0xfb4e68dd9c46ae5c5c0b351eed5c3f8f1471157d680c75d9b7f17318d542d320)) := by
  decide +kernel

/-- X6: the published shared secret. -/
theorem test_x25519_X6 :
    seen (step (issued 0x03#32 (memOf [(0x20, pkB), (0x40, kA)]) (argsOf 0 0x20 0x40 0 0 0))) 0 32 =
      some (2#32, some (hex 32 0x4a5d9d5ba4ce2de1728e3bf480350f25e07e21c947d19e3376f09b3c1e161742)) := by
  decide +kernel

/-- X4: the published public key. -/
theorem test_x25519_base_X4 :
    seen (step (issued 0x04#32 (memOf [(0x40, kA)]) (argsOf 0 0x20 0x40 0 0 0))) 0 32 =
      some (2#32, some (hex 32 0x8520f0098930a754748b7ddcb43ef75a0dbf3a0d26381af4eba4a98eaa9b4e6a)) := by
  decide +kernel

/-- The last published quarterround example of 95_test_vectors 2.1. -/
theorem test_quarterround_example :
    (quarterround (#v[0xe7e8c006#32, 0xc4f9417d#32, 0x6479b4b2#32, 0x68c67137#32] ++ Vector.replicate 12 0#32)
      0 1 2 3).toList.take 4 = [0xe876d72b#32, 0x9361dfd5#32, 0xf1460244#32, 0x948541a3#32] := by
  decide +kernel

/-- S1: the permutation with no feed-forward. -/
theorem test_salsa20_rounds_S1 :
    seen (step (issued 0x10#32 (memOf [(0x80, rising 1 32), (0xA0, rising 101 16)]) (argsOf 0 0 0 0x80 0xA0 0))) 0 64 =
      some (2#32, some (hex 64 0xcdd6ff3a8190fa2cf38f8f263e1462b5c2a513ab5592ed232fb822df855fddd3ca35b381db586c837d7b2dfec2ce7676218db01f4f33cc889f8555d98e0a8ad3)) := by
  decide +kernel

/-- S8: the constant at x[7] when A = 1. -/
theorem test_salsa20_block_S8 :
    seen (step (issued 0x111#32 (memOf [(0x80, rising 1 32), (0xA0, rising 101 16), (0xC0, zeros 16)])
      (argsOf 0 0 0 0x80 0xA0 0xC0))) 0 64 =
      some (2#32, some (hex 64 0xe321221f2432a3805b831dec7a5df7f50aa355834ac771ef8abedc47bbcfa824ff5a88f2c3db844cb9bc76c69e8c29977550a65ff318f1d9a553142b969c29fa)) := by
  decide +kernel

/-- S3: the words 0, 5, 10, 15, 6, 7, 8, 9. -/
theorem test_hsalsa20_S3 :
    seen (step (issued 0x12#32 (memOf [(0x80, rising 1 32), (0xA0, rising 101 16)]) (argsOf 0 0 0 0x80 0xA0 0))) 0 32 =
      some (2#32, some (hex 32 0xcdd6ff3a5592ed237d7b2dfe8e0a8ad32fb822df855fddd3ca35b381db586c83)) := by
  decide +kernel

/-- S11, in place: "hello" with the zero key and nonce. -/
theorem test_salsa20_xor_S11 :
    seen (step (issued 0x13#32 (memOf [(0, hex 5 0x68656c6c6f), (0x80, zeros 32), (0xA0, zeros 8)])
      (argsOf 0 0 5 0x80 0xA0 0))) 0 5 = some (2#32, some (hex 5 0xf2f29a37f4)) := by
  decide +kernel

/-- The first 5 bytes of S15 through the XOR of 5 zero bytes (42_salsa20 R186). -/
theorem test_xsalsa20_xor_S15_head :
    seen (step (issued 0x14#32 (memOf [(0x40, zeros 5), (0x80, keyKB), (0xA0, nonce24)])
      (argsOf 0 0x40 5 0x80 0xA0 0))) 0 5 = some (2#32, some (hex 5 0xeea6a7251c)) := by
  decide +kernel

/-- S10: five bytes of block 0. -/
theorem test_salsa20_stream_S10 :
    seen (step (issued 0x15#32 (memOf [(0x80, zeros 32), (0xA0, zeros 8)]) (argsOf 0 0 5 0x80 0xA0 0))) 0 5 =
      some (2#32, some (hex 5 0x9a97f65b9b)) := by
  decide +kernel

/-- S16: 100 bytes, two blocks. -/
theorem test_xsalsa20_stream_S16 :
    seen (step (issued 0x16#32 (memOf [(0x80, keyKB), (0xA0, nonce24)]) (argsOf 0 0 100 0x80 0xA0 0))) 0 100 =
      some (2#32, some (hex 100 0xeea6a7251c1e72916d11c2cb214d3c252539121d8e234e652d651fa4c8cff880309e645a74e9e0a60d8243acd9177ab51a1beb8d5a2f5d700c093c5e5585579625337bd3ab619d615760d8c5b224a85b1d0efe0eb8a7ee163abb0376529fcc09bab506c6)) := by
  decide +kernel

def polyKey : Bytes := hex 32 0x85d6be7857556d337f4452fe42d506a80103808afb0db2fd4abff6af4149f51b
def polyMsg : Bytes := hex 34 0x43727970746f6772617068696320466f72756d2052657365617263682047726f7570

/-- 3.1: the published message, whose last block has two bytes. -/
theorem test_poly1305_published :
    seen (step (issued 0x20#32 (memOf [(0x40, polyMsg), (0x80, polyKey)]) (argsOf 0 0x40 34 0x80 0 0))) 0 16 =
      some (2#32, some (hex 16 0xa8061dc1305136c6c22b8baf0c0127a9)) := by
  decide +kernel

/-- 3.1: the published tag verifies; with its last bit flipped it does not. -/
theorem test_poly1305_verify :
    seen (step (issued 0x21#32 (memOf [(0, hex 16 0xa8061dc1305136c6c22b8baf0c0127a9), (0x40, polyMsg), (0x80, polyKey)])
      (argsOf 0 0x40 34 0x80 0 0))) 0 0 = some (0x00000002#32, some []) ∧
    seen (step (issued 0x21#32 (memOf [(0, hex 16 0xa8061dc1305136c6c22b8baf0c0127a8), (0x40, polyMsg), (0x80, polyKey)])
      (argsOf 0 0x40 34 0x80 0 0))) 0 0 = some (0x00002002#32, some []) := by
  decide +kernel

/-- B1: the published NaCl first key. -/
theorem test_box_beforenm_B1 :
    seen (step (issued 0x30#32 (memOf [(0x20, pkB), (0x40, kA)]) (argsOf 0 0x20 0x40 0 0 0))) 0 32 =
      some (2#32, some keyKB) := by
  decide +kernel

/-- B5: the bytes after the 16 of any value are MAC and ciphertext of "hi". -/
theorem test_box_afternm_B5 :
    seen (step (issued 0x31#32 (memOf [(0, zeros 32 ++ hex 2 0x6869), (0x80, keyKB), (0xA0, nonce24)])
      (argsOf 0 0 34 0x80 0xA0 0))) 16 18 = some (2#32, some boxB4) := by
  decide +kernel

/-- B6: it opens; B9: with a ciphertext byte flipped it does not, and nothing is written. -/
theorem test_box_open_afternm_B6_B9 :
    seen (step (issued 0x32#32 (memOf [(0x40, zeros 16 ++ boxB4), (0x80, keyKB), (0xA0, nonce24)])
      (argsOf 0 0x40 34 0x80 0xA0 0))) 0 34 = some (0x00000002#32, some (zeros 32 ++ hex 2 0x6869)) ∧
    seen (step (issued 0x32#32 (memOf [(0x40, zeros 16 ++ hex 18 0xcf49b1774c8cb11d259910ffe6493dc958f6),
      (0x80, keyKB), (0xA0, nonce24)]) (argsOf 0 0x40 34 0x80 0xA0 0))) 0 34 = some (0x00002002#32, none) := by
  decide +kernel

/-- B4: MAC and ciphertext of "hi". -/
theorem test_box_encrypt_sym_B4 :
    seen (step (issued 0x33#32 (memOf [(0x40, hex 2 0x6869), (0x80, keyKB), (0xA0, nonce24)])
      (argsOf 0 0x40 2 0x80 0xA0 0))) 0 18 = some (2#32, some boxB4) := by
  decide +kernel

/-- B11 and B12: the message back; with a tag byte changed, no write. -/
theorem test_box_decrypt_sym_B11_B12 :
    seen (step (issued 0x34#32 (memOf [(0x40, boxB4), (0x80, keyKB), (0xA0, nonce24)])
      (argsOf 0 0x40 18 0x80 0xA0 0))) 0 2 = some (0x00000002#32, some (hex 2 0x6869)) ∧
    seen (step (issued 0x34#32 (memOf [(0x40, hex 18 0xcf48b1774c8cb11d259910ffe6493dc958f7), (0x80, keyKB),
      (0xA0, nonce24)]) (argsOf 0 0x40 18 0x80 0xA0 0))) 0 2 = some (0x00002002#32, none) := by
  decide +kernel

/-- V10: ERR_UNSUPPORTED comes before any range check. -/
theorem test_explicit_counter_V10 :
    seen (step (issued 0x213#32 [] (argsOf 0xFFFFFFFF 0 0xFFFFFFFF 0 0 0))) 0 0 = some (0x00003002#32, some []) := by
  decide +kernel

/-- H3: an unwritten operand byte is the fault UninitRead. -/
theorem test_uninit_read_H3 :
    faultOf (step (issued 0x03#32 (memOf [(0, zeros 32)]) (argsOf 0x40 0x20 0 0 0 0))) = some .uninitRead := by
  decide +kernel

/-! ## One host access each (95_test_vectors 6, H rows) -/

/-- The reply of a host read. -/
def replyOf (r : Result) : Option Reply :=
  match r with
  | .next t => t.host.replies.head?
  | _ => none

theorem test_host_faults_H2_H4_H6 :
    faultOf (hostAccess (.rd8 0x1000) State.reset) = some .uninitRead ∧
    faultOf (hostAccess (.otherWidth 16 0x1000) State.reset) = some .badHostAccess ∧
    faultOf (hostAccess (.rd32 0x1002) State.reset) = some .badHostAccess ∧
    faultOf (hostAccess (.wr8 0x2000 0#8) State.reset) = some .badHostAccess := by decide +kernel

theorem test_host_lanes_H9 :
    ((nextOf (hostAccess (.wr32 0x1010 0x44434241#32) State.reset)).map fun t =>
      (replyOf (hostAccess (.rd8 0x1010) t), replyOf (hostAccess (.rd8 0x1013) t))) =
      some (some (.byte 0x41#8), some (.byte 0x44#8)) := by decide +kernel

theorem test_host_status_H8 :
    ((nextOf (step (issued 0x05#32 [] ArgFile.zero))).bind fun t =>
      (nextOf (hostAccess (.wr32 0x014 2#32) t)).bind fun r => replyOf (hostAccess (.rd32 0x014) r)) =
      some (.word 0x00000100#32) := by decide +kernel

/-- Program 5: the write to ARG0 before or after the engine's step. -/
theorem test_program5_both_orders :
    ((nextOf (hostAccess (.wr32 0x020 0x55#32) (issued 0#32 [] ArgFile.zero))).map fun t =>
      (t.args.x0, seen (step t) 0 0)) = some (0#32, some (0x00000006#32, some [])) ∧
    ((nextOf (step (issued 0#32 [] ArgFile.zero))).bind fun t =>
      (nextOf (hostAccess (.wr32 0x020 0x55#32) t)).map fun r => (r.args.x0, statusWord r)) =
      some (0x55#32, 0x00000002#32) := by decide +kernel

/-! ## Witnesses: for each statement with hypotheses, a state and operands that meet all of them -/

/-- A block of the smallest BUF_SIZE, 256, whose BUF holds the pattern byte i at offset i, with the word `w` issued. -/
def full (w : Word) (a : ArgFile) : State :=
  issue w { State.resetOf 256#32 with mem := (List.range 256).map fun i => (i, BitVec.ofNat 8 i), args := a }

/-- The same block IDLE. -/
def idle : State := { full 0#32 ArgFile.zero with busy := false }

/-- The bytes at `a` are readable and are the pattern. -/
def holdsPattern (s : State) (a : Word) (n : Nat) : Prop := Memory.readBytes s.mem a.toNat n = some (rising a.toNat n)

/-- The code with which the engine's step on a word completes. -/
def stepCode (w : Word) : Option ErrCode := (nextOf (step (full w ArgFile.zero))).map (·.errcode)

/-- One word on each side of every boundary of the clauses, and the error of each. -/
theorem test_witness_UndefinedWordsEndInTheirError :
    (full 0x400#32 ArgFile.zero).busy = true ∧ (full 0x400#32 ArgFile.zero).turns = [] ∧
    [0x400#32, 0x80000000#32, 0x405#32].map stepCode = List.replicate 3 (some .reserved) ∧
    [0x05#32, 0x0F#32, 0x17#32, 0x1F#32, 0x22#32, 0x2F#32, 0x35#32, 0xFF#32, 0x305#32].map stepCode =
      List.replicate 9 (some .opcode) ∧
    [0x100#32, 0x104#32, 0x200#32, 0x210#32, 0x212#32, 0x113#32, 0x313#32, 0x116#32, 0x120#32, 0x221#32, 0x130#32,
      0x234#32].map stepCode = List.replicate 12 (some .flag) ∧
    [0x213#32, 0x216#32].map stepCode = List.replicate 2 (some .unsupported) := by
  decide +kernel

theorem test_witness_StepRunsTheLatchedCommand :
    (full 0x01#32 ArgFile.zero).busy = true ∧ decoded (full 0x01#32 ArgFile.zero).latch.cmd = some .clamp ∧
    (full 0x01#32 ArgFile.zero).turns = [] ∧
    { full 0x01#32 ArgFile.zero with turns := [.engine] }.turns = .engine :: [] := by decide +kernel

theorem test_witness_StepFollowsTheTurns :
    { idle with turns := [.host] }.turns = .host :: [] ∧
    { full 0#32 ArgFile.zero with turns := [.engine] }.turns = .engine :: [] ∧ (full 0#32 ArgFile.zero).busy = true ∧
    { idle with turns := [.engine] }.turns = .engine :: [] ∧ idle.busy = false ∧
    (full 0#32 ArgFile.zero).turns = [] ∧ idle.turns = [] := by decide +kernel

/-- Both outcomes of the statement occur. -/
theorem test_witness_IssuedCommandCompletesInOneStep :
    (full 0#32 ArgFile.zero).busy = true ∧ (full 0#32 ArgFile.zero).turns = [] ∧
    (nextOf (step (full 0#32 ArgFile.zero))).map (·.done) = some true ∧
    (issued 0x21#32 [] ArgFile.zero).busy = true ∧ (issued 0x21#32 [] ArgFile.zero).turns = [] ∧
    faultOf (step (issued 0x21#32 [] ArgFile.zero)) = some .uninitRead := by decide +kernel

/-- H13: reset while BUSY = 1. -/
theorem test_witness_ResetInputRestoresTheResetState :
    { full 0x03#32 ArgFile.zero with turns := [.reset] }.turns = .reset :: [] ∧
    (nextOf (step { full 0x03#32 ArgFile.zero with turns := [.reset] })) =
      some { State.resetOf 256#32 with turns := [] } := by decide +kernel

theorem test_witness_ResetMeetsTheInvariant :
    Config.legalBufSize (256#32).toNat = true ∧ Config.legalBufSize (0x1000000#32).toNat = true := by decide

theorem test_inv_full : (full 0#32 ArgFile.zero).Inv :=
  ⟨by decide +kernel, ⟨by decide +kernel, by decide +kernel⟩, fun _ => ⟨rfl, rfl, rfl, rfl⟩⟩

theorem test_witness_EveryStepKeepsTheInvariant :
    (full 0#32 ArgFile.zero).Inv ∧ ∃ t, step (full 0#32 ArgFile.zero) = .next t :=
  ⟨test_inv_full, exists_next (by decide +kernel)⟩

theorem test_witness_ReservedOffsetsAndBitsReadZero :
    (∀ h ∈ [0x00C, 0x01C, 0x040, 0xFFC], h % 4 = 0 ∧ (h = 0x00C ∨ h = 0x01C ∨ 0x040 ≤ h ∧ h ≤ 0xFFC) ∧
      replyOf (hostAccess (.rd32 h) idle) = some (.word 0#32)) := by decide +kernel

theorem test_witness_CmdWriteIssues : idle.busy = false := rfl

theorem test_witness_WritesWhileBusyAreDropped :
    (full 0#32 ArgFile.zero).busy = true ∧ 0 < (full 0#32 ArgFile.zero).bufSize ∧
    255 < (full 0#32 ArgFile.zero).bufSize ∧ 252 % 4 = 0 ∧ 252 + 4 ≤ (full 0#32 ArgFile.zero).bufSize ∧
    (∀ a ∈ [HostAccess.wr32 0x010 1#32, .wr32 0x020 1#32, .wr32 0x03C 1#32, .wr8 0x1000 1#8, .wr8 0x10FF 1#8,
        .wr32 0x1000 1#32, .wr32 0x10FC 1#32],
      nextOf (hostAccess a (full 0#32 ArgFile.zero)) = some { full 0#32 ArgFile.zero with busywr := true }) ∧
    (∀ a ∈ [HostAccess.wr32 0x000 1#32, .wr32 0x00C 1#32, .wr32 0x01C 1#32, .wr32 0x040 1#32, .wr32 0xFFC 1#32],
      nextOf (hostAccess a (full 0#32 ArgFile.zero)) = some (full 0#32 ArgFile.zero)) := by decide +kernel

theorem test_witness_ArgRegistersHoldWhatTheHostWrote :
    idle.busy = false ∧ (full 0#32 ArgFile.zero).busy = true ∧
    (nextOf (engineStep (full 0x01#32 (argsOf 0 0 0x20 0 0 0)))).map (·.args) = some (argsOf 0 0 0x20 0 0 0) := by
  decide +kernel

theorem test_witness_CmdHoldsTheLastWord :
    idle.busy = false ∧ (full 0#32 ArgFile.zero).busy = true ∧
    (nextOf (engineStep (full 0x405#32 ArgFile.zero))).map (·.cmd) = some 0x405#32 := by decide +kernel

theorem test_witness_WordAccessesUseLittleEndianLanes :
    idle.busy = false ∧ 0 % 4 = 0 ∧ 0 + 4 ≤ idle.bufSize ∧ 252 % 4 = 0 ∧ 252 + 4 ≤ idle.bufSize ∧
    Memory.readBytes idle.mem 252 4 = some (rising 252 4) ∧ Memory.read idle.mem 251 = some 251#8 := by decide +kernel

/-- Each clause at both sides of its boundaries. -/
theorem test_witness_HostAccessFaultsExactly :
    Config.legalBufSize idle.bufSize = true ∧
    (∀ h ∈ [0xFFF, 0x1100], faultOf (hostAccess (.rd8 h) idle) = some .badHostAccess ∧
      faultOf (hostAccess (.wr8 h 0#8) idle) = some .badHostAccess) ∧
    (∀ h ∈ [0x1000, 0x10FF], (nextOf (hostAccess (.rd8 h) idle)).isSome = true ∧
      (nextOf (hostAccess (.wr8 h 0#8) idle)).isSome = true) ∧
    (∀ h ∈ [0x001, 0x1002, 0x10FD, 0x1100], faultOf (hostAccess (.rd32 h) idle) = some .badHostAccess ∧
      faultOf (hostAccess (.wr32 h 0#32) idle) = some .badHostAccess) ∧
    (∀ h ∈ [0x000, 0xFFC, 0x1000, 0x10FC], (nextOf (hostAccess (.rd32 h) idle)).isSome = true) ∧
    faultOf (hostAccess (.rd8 0x10FF) (State.resetOf 256#32)) = some .uninitRead ∧
    faultOf (hostAccess (.rd32 0x10FC) (State.resetOf 256#32)) = some .uninitRead ∧
    Memory.read (State.resetOf 256#32).mem (0x10FC - 0x1000 + 3) = none := by decide +kernel

/-- An idle read, and one while BUSY = 1 whose value no one can know. -/
theorem test_witness_HostReadsHaveNoSideEffect :
    (∃ t, hostAccess (.rd8 0x1000) idle = .next t) ∧ idle.busy = false ∧
    (∃ t, hostAccess (.rd32 0x10FC) (full 0#32 ArgFile.zero) = .next t) ∧ (full 0#32 ArgFile.zero).busy = true :=
  ⟨exists_next (by decide +kernel), rfl, exists_next (by decide +kernel), rfl⟩

theorem test_witness_WaitAndBranchFollowStatus :
    (loadHost [.wait] idle).host.prog[(loadHost [.wait] idle).host.pc]? = some .wait ∧
    (loadHost [.jumpErr 5] idle).host.prog[(loadHost [.jumpErr 5] idle).host.pc]? = some (.jumpErr 5) := by
  decide +kernel

/-- The empty string, one that ends at the last byte of BUF, and a command with operands. -/
theorem test_witness_HostNotationRunsAsItExpands :
    idle.busy = false ∧ idle.turns = [] ∧ idle.host.pc = 0 ∧
    (loadHost (expandWrbuf 256 []) idle).host.prog = expandWrbuf 256 [] ∧ 256 + 0 ≤ idle.bufSize ∧
    (loadHost (expandWrbuf 254 [1#8, 2#8]) idle).host.pc = 0 ∧ 254 + [1#8, 2#8].length ≤ idle.bufSize ∧
    (nextOf (Host.Core.run core 4
      (loadHost (expandCommand 0x12#8 true false [(.dst, 7#32), (.u, 8#32), (.k, 9#32)]) idle))).map
        (fun t => (t.cmd, t.latch.arg)) = some (0x112#32, argsOf 7 8 9 0 0 0) := by decide +kernel

/-- A command at each check and past all of them: BOX_AFTERNM with L = 31, dst one byte too far, dst touching the key by
one byte, and all in order with L = 32, in place. -/
theorem test_witness_ArgumentChecksInFixedOrder :
    Instr.icBit .boxAfternm = false ∧
    (seen (exec .boxAfternm (full 0x31#32 (argsOf 0x5000 0 31 0x40 0x60 0))) 0 0).map (·.1) = some 0x1102#32 ∧
    (seen (exec .boxAfternm (full 0x31#32 (argsOf 225 225 32 0x40 0x60 0))) 0 0).map (·.1) = some 0x1002#32 ∧
    (seen (exec .boxAfternm (full 0x31#32 (argsOf 0x21 0x21 32 0x40 0x60 0))) 0 0).map (·.1) = some 0x1202#32 ∧
    (seen (exec .boxAfternm (full 0x31#32 (argsOf 0x21 0x20 32 0x80 0x60 0))) 0 0).map (·.1) = some 0x1202#32 ∧
    (seen (exec .boxAfternm (full 0x31#32 (argsOf 224 224 32 0xC0 0x60 0))) 0 0).map (·.1) = some 0x0002#32 := by
  decide +kernel

theorem test_witness_ErrorsChangeOnlyStatus :
    (nextOf (engineStep (full 0x34#32 (argsOf 0xC0 0 48 0x40 0x80 0)))).map (·.errcode) = some .auth := by decide +kernel

theorem test_witness_CommandsChangeOnlyOutputsAndStatus :
    (nextOf (exec .clamp (full 0x01#32 (argsOf 224 0 0 0 0 0)))).map (fun t => (t.errcode, Memory.read t.mem 223,
      Memory.read t.mem 224, Memory.read t.mem 255)) = some (.ok, some 223#8, some 0#8, some 0x5F#8) ∧
    (nextOf (exec .clamp (full 0x01#32 (argsOf 225 0 0 0 0 0)))).map (·.errcode) = some .range := by decide +kernel

theorem test_witness_ExplicitCounterIsUnsupported :
    (nextOf (exec (.xsalsa20Stream true) (full 0x216#32 ArgFile.zero))).map (·.errcode) = some .unsupported := by
  decide +kernel

/-- dst [0, 32), k [32, 64). -/
theorem test_witness_ClampWritesTheClampedScalar :
    let s := full 0x01#32 (argsOf 0 0 32 0 0 0)
    let x := s.latch.arg
    x.x0.toNat + 32 ≤ s.bufSize ∧ x.x2.toNat + 32 ≤ s.bufSize ∧
    (x.x0.toNat + 32 ≤ x.x2.toNat ∨ x.x2.toNat + 32 ≤ x.x0.toNat) ∧
    Memory.readBytes s.mem x.x2.toNat 32 = some (rising 32 32) := by decide +kernel

/-- The hypotheses of the two X25519 commands and of BOX_BEFORENM: dst at the end of BUF, u (pk) and k (sk) the same
range. -/
theorem test_witness_X25519_and_BoxBeforenm :
    let s := full 0x03#32 (argsOf 224 192 192 0 0 0)
    let x := s.latch.arg
    x.x0.toNat + 32 ≤ s.bufSize ∧ x.x1.toNat + 32 ≤ s.bufSize ∧ x.x2.toNat + 32 ≤ s.bufSize ∧
    (x.x0.toNat + 32 ≤ x.x1.toNat ∨ x.x1.toNat + 32 ≤ x.x0.toNat) ∧
    (x.x0.toNat + 32 ≤ x.x2.toNat ∨ x.x2.toNat + 32 ≤ x.x0.toNat) ∧
    Memory.readBytes s.mem x.x1.toNat 32 = some (rising 192 32) ∧
    Memory.readBytes s.mem x.x2.toNat 32 = some (rising 192 32) := by decide +kernel

/-- x[1] lies outside BUF: it is not an operand. -/
theorem test_witness_X25519BaseIsX25519AtNine :
    let s := full 0x04#32 (argsOf 0 0xFFFFFFFF 224 0 0 0)
    let x := s.latch.arg
    x.x0.toNat + 32 ≤ s.bufSize ∧ x.x2.toNat + 32 ≤ s.bufSize ∧
    (x.x0.toNat + 32 ≤ x.x2.toNat ∨ x.x2.toNat + 32 ≤ x.x0.toNat) ∧
    Memory.readBytes s.mem x.x2.toNat 32 = some (rising 224 32) := by decide +kernel

/-- A = 0 with x[7] outside BUF, and A = 1 with the constant at the end of BUF. -/
theorem test_witness_CoreCommandsWriteTheirBlock :
    ∀ p ∈ [(false, 0xFFFFFFFF), (true, 240)],
    let s := full 0x10#32 (argsOf 0 0 0 64 96 p.2)
    let x := s.latch.arg
    x.x0.toNat + 64 ≤ s.bufSize ∧ x.x3.toNat + 32 ≤ s.bufSize ∧ x.x4.toNat + 16 ≤ s.bufSize ∧
    (x.x0.toNat + 64 ≤ x.x3.toNat ∨ x.x3.toNat + 32 ≤ x.x0.toNat) ∧
    (x.x0.toNat + 64 ≤ x.x4.toNat ∨ x.x4.toNat + 16 ≤ x.x0.toNat) ∧
    Memory.readBytes s.mem x.x3.toNat 32 = some (rising 64 32) ∧
    Memory.readBytes s.mem x.x4.toNat 16 = some (rising 96 16) ∧
    (p.1 = true → x.x7.toNat + 16 ≤ s.bufSize ∧ (x.x0.toNat + 64 ≤ x.x7.toNat ∨ x.x7.toNat + 16 ≤ x.x0.toNat) ∧
      Memory.readBytes s.mem x.x7.toNat 16 = some (rising 240 16)) := by decide +kernel

theorem test_witness_Hsalsa20WritesTheSubkey :
    ∀ p ∈ [(false, 0xFFFFFFFF), (true, 240)],
    let s := full 0x12#32 (argsOf 0 0 0 32 64 p.2)
    let x := s.latch.arg
    x.x0.toNat + 32 ≤ s.bufSize ∧ x.x3.toNat + 32 ≤ s.bufSize ∧ x.x4.toNat + 16 ≤ s.bufSize ∧
    (x.x0.toNat + 32 ≤ x.x3.toNat ∨ x.x3.toNat + 32 ≤ x.x0.toNat) ∧
    (x.x0.toNat + 32 ≤ x.x4.toNat ∨ x.x4.toNat + 16 ≤ x.x0.toNat) ∧
    Memory.readBytes s.mem x.x3.toNat 32 = some (rising 32 32) ∧
    Memory.readBytes s.mem x.x4.toNat 16 = some (rising 64 16) ∧
    (p.1 = true → x.x7.toNat + 16 ≤ s.bufSize ∧ (x.x0.toNat + 32 ≤ x.x7.toNat ∨ x.x7.toNat + 16 ≤ x.x0.toNat) ∧
      Memory.readBytes s.mem x.x7.toNat 16 = some (rising 240 16)) := by decide +kernel

/-- L = 0 at offset BUF_SIZE; in place; apart. The nonce is at 40, with 8 and with 24 bytes. -/
theorem test_witness_XorCommandsXorTheKeystream :
    ∀ p ∈ [(256, 256, 0), (64, 64, 65), (64, 80, 16)],
    let s := full 0x13#32 (argsOf p.1 p.2.1 p.2.2 0 40 0)
    let x := s.latch.arg
    let L := x.x2.toNat
    x.x0.toNat + L ≤ s.bufSize ∧ x.x1.toNat + L ≤ s.bufSize ∧ x.x3.toNat + 32 ≤ s.bufSize ∧
    (x.x0 = x.x1 ∨ L = 0 ∨ x.x0.toNat + L ≤ x.x1.toNat ∨ x.x1.toNat + L ≤ x.x0.toNat) ∧
    (L = 0 ∨ x.x0.toNat + L ≤ x.x3.toNat ∨ x.x3.toNat + 32 ≤ x.x0.toNat) ∧
    Memory.readBytes s.mem x.x1.toNat L = some (rising p.2.1 L) ∧
    Memory.readBytes s.mem x.x3.toNat 32 = some (rising 0 32) ∧ x.x4.toNat + 24 ≤ s.bufSize ∧
    (L = 0 ∨ x.x0.toNat + L ≤ x.x4.toNat ∨ x.x4.toNat + 24 ≤ x.x0.toNat) ∧
    Memory.readBytes s.mem x.x4.toNat 8 = some (rising 40 8) ∧
    Memory.readBytes s.mem x.x4.toNat 24 = some (rising 40 24) := by decide +kernel

theorem test_witness_StreamCommandsWriteTheKeystream :
    ∀ p ∈ [(256, 0), (64, 192)],
    let s := full 0x15#32 (argsOf p.1 0xFFFFFFFF p.2 0 40 0)
    let x := s.latch.arg
    let L := x.x2.toNat
    x.x0.toNat + L ≤ s.bufSize ∧ x.x3.toNat + 32 ≤ s.bufSize ∧
    (L = 0 ∨ x.x0.toNat + L ≤ x.x3.toNat ∨ x.x3.toNat + 32 ≤ x.x0.toNat) ∧
    Memory.readBytes s.mem x.x3.toNat 32 = some (rising 0 32) ∧ x.x4.toNat + 24 ≤ s.bufSize ∧
    (L = 0 ∨ x.x0.toNat + L ≤ x.x4.toNat ∨ x.x4.toNat + 24 ≤ x.x0.toNat) ∧
    Memory.readBytes s.mem x.x4.toNat 8 = some (rising 40 8) ∧
    Memory.readBytes s.mem x.x4.toNat 24 = some (rising 40 24) := by decide +kernel

/-- The empty message inside the tag's range, and 80 bytes behind it. -/
theorem test_witness_Poly1305WritesTheTag :
    ∀ p ∈ [(8, 0), (16, 80)],
    let s := full 0x20#32 (argsOf 0 p.1 p.2 224 0 0)
    let x := s.latch.arg
    let L := x.x2.toNat
    x.x0.toNat + 16 ≤ s.bufSize ∧ x.x1.toNat + L ≤ s.bufSize ∧ x.x3.toNat + 32 ≤ s.bufSize ∧
    (L = 0 ∨ x.x0.toNat + 16 ≤ x.x1.toNat ∨ x.x1.toNat + L ≤ x.x0.toNat) ∧
    (x.x0.toNat + 16 ≤ x.x3.toNat ∨ x.x3.toNat + 32 ≤ x.x0.toNat) ∧
    Memory.readBytes s.mem x.x1.toNat L = some (rising p.1 p.2) ∧
    Memory.readBytes s.mem x.x3.toNat 32 = some (rising 224 32) := by decide +kernel

/-- Tag, message and key on top of each other. -/
theorem test_witness_Poly1305VerifyComparesTheTag :
    let s := full 0x21#32 (argsOf 240 208 48 224 0 0)
    let x := s.latch.arg
    let L := x.x2.toNat
    x.x0.toNat + 16 ≤ s.bufSize ∧ x.x1.toNat + L ≤ s.bufSize ∧ x.x3.toNat + 32 ≤ s.bufSize ∧
    Memory.readBytes s.mem x.x0.toNat 16 = some (rising 240 16) ∧
    Memory.readBytes s.mem x.x1.toNat L = some (rising 208 48) ∧
    Memory.readBytes s.mem x.x3.toNat 32 = some (rising 224 32) := by decide +kernel

/-- The hypotheses of BOX_AFTERNM and BOX_OPEN_AFTERNM: L = 32 in place, and 80 bytes apart. -/
theorem test_witness_BoxAfternm_and_BoxOpenAfternm :
    ∀ p ∈ [(64, 64, 32), (64, 144, 80)],
    let s := full 0x31#32 (argsOf p.1 p.2.1 p.2.2 0 40 0)
    let x := s.latch.arg
    let L := x.x2.toNat
    32 ≤ L ∧ x.x0.toNat + L ≤ s.bufSize ∧ x.x1.toNat + L ≤ s.bufSize ∧ x.x3.toNat + 32 ≤ s.bufSize ∧
    x.x4.toNat + 24 ≤ s.bufSize ∧
    (x.x0 = x.x1 ∨ x.x0.toNat + L ≤ x.x1.toNat ∨ x.x1.toNat + L ≤ x.x0.toNat) ∧
    (x.x0.toNat + L ≤ x.x3.toNat ∨ x.x3.toNat + 32 ≤ x.x0.toNat) ∧
    (x.x0.toNat + L ≤ x.x4.toNat ∨ x.x4.toNat + 24 ≤ x.x0.toNat) ∧
    Memory.readBytes s.mem x.x1.toNat L = some (rising p.2.1 L) ∧
    Memory.readBytes s.mem x.x3.toNat 32 = some (rising 0 32) ∧
    Memory.readBytes s.mem x.x4.toNat 24 = some (rising 40 24) := by decide +kernel

/-- L = 0 with src inside dst, and L = 80. -/
theorem test_witness_BoxEncryptSymWritesMacThenCiphertext :
    ∀ p ∈ [(64, 70, 0), (64, 160, 80)],
    let s := full 0x33#32 (argsOf p.1 p.2.1 p.2.2 0 40 0)
    let x := s.latch.arg
    let L := x.x2.toNat
    x.x0.toNat + (L + 16) ≤ s.bufSize ∧ x.x1.toNat + L ≤ s.bufSize ∧ x.x3.toNat + 32 ≤ s.bufSize ∧
    x.x4.toNat + 24 ≤ s.bufSize ∧
    (L = 0 ∨ x.x0.toNat + (L + 16) ≤ x.x1.toNat ∨ x.x1.toNat + L ≤ x.x0.toNat) ∧
    (x.x0.toNat + (L + 16) ≤ x.x3.toNat ∨ x.x3.toNat + 32 ≤ x.x0.toNat) ∧
    (x.x0.toNat + (L + 16) ≤ x.x4.toNat ∨ x.x4.toNat + 24 ≤ x.x0.toNat) ∧
    Memory.readBytes s.mem x.x1.toNat L = some (rising p.2.1 L) ∧
    Memory.readBytes s.mem x.x3.toNat 32 = some (rising 0 32) ∧
    Memory.readBytes s.mem x.x4.toNat 24 = some (rising 40 24) := by decide +kernel

/-- L = 16 with an empty dst inside src, and L = 96. -/
theorem test_witness_BoxDecryptSymReleasesOnlyAuthentic :
    ∀ p ∈ [(70, 64, 16), (64, 160, 96)],
    let s := full 0x34#32 (argsOf p.1 p.2.1 p.2.2 0 40 0)
    let x := s.latch.arg
    let L := x.x2.toNat
    16 ≤ L ∧ x.x0.toNat + (L - 16) ≤ s.bufSize ∧ x.x1.toNat + L ≤ s.bufSize ∧ x.x3.toNat + 32 ≤ s.bufSize ∧
    x.x4.toNat + 24 ≤ s.bufSize ∧
    (L = 16 ∨ x.x0.toNat + (L - 16) ≤ x.x1.toNat ∨ x.x1.toNat + L ≤ x.x0.toNat) ∧
    (L = 16 ∨ x.x0.toNat + (L - 16) ≤ x.x3.toNat ∨ x.x3.toNat + 32 ≤ x.x0.toNat) ∧
    (L = 16 ∨ x.x0.toNat + (L - 16) ≤ x.x4.toNat ∨ x.x4.toNat + 24 ≤ x.x0.toNat) ∧
    Memory.readBytes s.mem x.x1.toNat L = some (rising p.2.1 L) ∧
    Memory.readBytes s.mem x.x3.toNat 32 = some (rising 0 32) ∧
    Memory.readBytes s.mem x.x4.toNat 24 = some (rising 40 24) := by decide +kernel

theorem test_witness_FieldInverse :
    0 % (2 ^ 255 - 19) = 0 ∧ (2 ^ 255 - 19) % (2 ^ 255 - 19) = 0 ∧ 2 % (2 ^ 255 - 19) ≠ 0 ∧
    fmul 2 (finv 2) = 1 := by decide +kernel

/-- Two scalars that differ in bit 255 alone. -/
theorem test_witness_LadderReadsBits254Down :
    ∀ t, t ≤ 254 → Nat.testBit 2 t = Nat.testBit (2 ^ 255 + 2) t := by
  intro t ht
  rw [Nat.testBit_two_pow_add_gt (by omega)]

/-- u = 9 and u = p + 9, and two scalars that differ in the bits the clamp fixes. -/
theorem test_witness_X25519DependsOnReducedOperands :
    u9.length = 32 ∧ (leN 32 (2 ^ 255 - 19 + 9)).length = 32 ∧ (zeros 32).length = 32 ∧
    (leN 32 (7 + 2 ^ 254 + 2 ^ 255)).length = 32 ∧
    le u9 % 2 ^ 255 % (2 ^ 255 - 19) = le (leN 32 (2 ^ 255 - 19 + 9)) % 2 ^ 255 % (2 ^ 255 - 19) ∧
    (∀ t, t ≤ 253 → 3 ≤ t → (le (zeros 32)).testBit t = (le (leN 32 (7 + 2 ^ 254 + 2 ^ 255))).testBit t) := by
  decide +kernel

/-- The first block, and the last one before the counter wraps. -/
theorem test_witness_StreamBlockHasItsCounter :
    0 < 2 ^ 64 ∧ 64 * (0 + 1) ≤ 64 ∧ 2 ^ 64 - 1 < 2 ^ 64 ∧ 64 * (2 ^ 64 - 1 + 1) ≤ 2 ^ 70 := by decide

theorem test_witness_BoxFunctions : nonce24.length = 24 ∧ (zeros 16).length = 16 ∧ keyKB.length = 32 := by decide

/-- In place on 3 bytes, twice. -/
theorem test_witness_XorTwiceRestoresTheData :
    let s := full 0x13#32 (argsOf 64 64 3 0 40 0)
    s.latch.arg.x0 = s.latch.arg.x1 ∧
    ((nextOf (exec (.salsa20Xor false) s)).bind fun t => nextOf (exec (.salsa20Xor false) t)).isSome = true ∧
    ((nextOf (exec (.salsa20Xor false) s)).map fun t => decide (t.mem = s.mem)) = some false := by decide +kernel

/-- A dropped write leaves the command issued. -/
theorem test_witness_BusyHoldsOperandsStill :
    let s := { loadHost [.access (.wr32 0x020 1#32)] (full 0#32 ArgFile.zero) with turns := [.host] }
    s.busy = true ∧ (nextOf (step s)).map (fun t => (t.busy, t.busywr)) = some (true, true) := by decide +kernel

/-- A reset, a CLAMP and a host write, each of which changes BUF. -/
theorem test_witness_OnlyNamedEventsChangeBuf :
    (∀ s ∈ [{ idle with turns := [.reset] }, full 0x01#32 (argsOf 0 0 32 0 0 0),
        loadHost [.access (.wr8 0x1000 1#8)] idle, loadHost [.access (.wr32 0x10FC 1#32)] idle],
      (nextOf (step s)).any (fun t => decide (t.mem ≠ s.mem)) = true) := by decide +kernel

/-- Every flag set and cleared by an event the statement names: a dropped write at each edge of CMD, the ARGs and BUF (and
not by a reserved offset beside them), completion, issue, the STATUS write, reset. -/
theorem test_witness_FlagsChangeOnlyAsNamed :
    let flagsSet := { idle with done := true, busywr := true, errcode := .range }
    let dropped := fun a => (nextOf (step { loadHost [.access a] (full 0#32 ArgFile.zero) with turns := [.host] })).map
      (fun t => (t.busywr, t.done, t.errcode))
    ([.wr32 0x010 1#32, .wr32 0x020 1#32, .wr32 0x03C 1#32, .wr8 0x1000 1#8, .wr8 0x10FF 1#8,
      .wr32 0x10FC 1#32].map dropped) = List.replicate 6 (some (true, false, .ok)) ∧
    ([.wr32 0x00C 1#32, .wr32 0x01C 1#32, .wr32 0x040 1#32].map dropped) =
      List.replicate 3 (some (false, false, .ok)) ∧
    (nextOf (step (full 0x05#32 ArgFile.zero))).map (fun t => (t.done, t.errcode)) = some (true, .opcode) ∧
    (nextOf (step (loadHost [.access (.wr32 0x010 0#32)] flagsSet))).map
      (fun t => (t.done, t.busywr, t.errcode)) = some (false, true, .ok) ∧
    (nextOf (step (loadHost [.access (.wr32 0x014 6#32)] flagsSet))).map
      (fun t => (t.done, t.busywr, t.errcode)) = some (false, false, .range) ∧
    (nextOf (step { flagsSet with turns := [.reset] })).map
      (fun t => (t.done, t.busywr, t.errcode)) = some (false, false, .ok) := by decide +kernel

end Sys2Proof.Tests
end

/-! SUPPORT. Proofs of the statements of 10_state.md: the registers a host sees, what the engine reads, the invariant, and
which events change BUF and the flags. -/

namespace Sys2Proof.Machine

/-! ## Register accesses -/

/-- An aligned read below BUF answers the register there (10_state R20). -/
theorem hostAccess_rd32_reg {h : Nat} (s : State) (ha : h % 4 = 0) (hb : h < bufBase) :
    hostAccess (.rd32 h) s = .next (answer (.word (readReg s (regAt h))) s) := by
  simp only [hostAccess, ha, hb, if_true]

/-- An aligned write below BUF goes to the register there (10_state R20). -/
theorem hostAccess_wr32_reg {h : Nat} (v : Word) (s : State) (ha : h % 4 = 0) (hb : h < bufBase) :
    hostAccess (.wr32 h v) s = .next (writeReg (regAt h) v s) := by
  simp only [hostAccess, ha, hb, if_true]

theorem hostAccess_rd32_arg (i : Fin 8) (s : State) :
    hostAccess (.rd32 (0x020 + 4 * i.val)) s = .next (answer (.word (s.args.get i)) s) := by
  obtain ⟨hreg, halign, hlow⟩ := regAt_arg i
  rw [hostAccess_rd32_reg s halign hlow, hreg]; rfl

theorem hostAccess_wr32_arg (i : Fin 8) (v : Word) (s : State) :
    hostAccess (.wr32 (0x020 + 4 * i.val) v) s = .next (if s.busy then dropWrite s else setArg i v s) := by
  obtain ⟨hreg, halign, hlow⟩ := regAt_arg i
  rw [hostAccess_wr32_reg v s halign hlow, hreg]; rfl

theorem hostAccess_wr32_cmd (w : Word) (s : State) :
    hostAccess (.wr32 0x010 w) s = .next (if s.busy then dropWrite s else issue w s) := rfl

/-- A write to STATUS looks at bits 1 and 2 alone (10_state R27). -/
theorem writeStatus_congr {v w : Word} (h1 : v.getLsbD 1 = w.getLsbD 1) (h2 : v.getLsbD 2 = w.getLsbD 2) (s : State) :
    writeStatus v s = writeStatus w s := by
  rw [writeStatus, writeStatus, h1, h2]

/-- STATUS reads 0 where every one of its fields is 0 (10_state R27, R37). -/
theorem statusWord_eq_zero {s : State} (hbusy : s.busy = false) (hdone : s.done = false) (hwr : s.busywr = false)
    (hcode : s.errcode = .ok) : statusWord s = 0#32 := by
  rw [statusWord, hbusy, hdone, hwr, hcode]; decide

/-- The reserved bits of IRQ_EN read 0 (10_state R23). -/
theorem irqEnWord_reserved (s : State) : irqEnWord s &&& 0xFFFFFFFE#32 = 0#32 := by
  rw [irqEnWord]; cases s.doneIe <;> decide

theorem irqEnWord_eq (s : State) : irqEnWord s = if s.doneIe then 1#32 else 0#32 := by
  rw [irqEnWord]; cases s.doneIe <;> rfl

theorem irqEnWord_bit0 (s : State) : (irqEnWord s).getLsbD 0 = s.doneIe := by
  rw [irqEnWord]; cases s.doneIe <;> rfl

@[simp] theorem ArgFile.get_zero (i : Fin 8) : ArgFile.zero.get i = 0#32 := by
  fin_cases i <;> rfl

/-- Settles O12: each constant register is one line of the register map. -/
theorem constantRegistersAreReadOnly : Obligations.ConstantRegistersAreReadOnly := by
  intro s v
  have hsize : BitVec.ofNat 32 s.bufSize = s.bufsz := by simp [State.bufSize]
  exact ⟨rfl, rfl, by rw [hsize]; rfl, rfl, rfl, rfl⟩

/-- Settles O13: a reserved offset is no register, and what is read or written of STATUS and IRQ_EN is in their fields. -/
theorem reservedOffsetsAndBitsReadZero : Obligations.ReservedOffsetsAndBitsReadZero := by
  intro s v
  refine ⟨fun h halign hres => ?_, (statusWord_fields s).1, irqEnWord_reserved s, ?_, ?_⟩
  · have hlow : h < bufBase := by unfold bufBase; omega
    rw [hostAccess_rd32_reg s halign hlow, hostAccess_wr32_reg v s halign hlow, regAt_reserved hres]
    exact ⟨rfl, rfl⟩
  · exact congrArg Host.Outcome.next (writeStatus_congr (by simp) (by simp) s)
  · have hbit : v.getLsbD 0 = (v &&& 0x00000001#32).getLsbD 0 := by simp
    exact congrArg (fun b => Host.Outcome.next { s with doneIe := b }) hbit

/-- Settles O16: the fields of the STATUS word, the number of each error code, and the write of ones. -/
theorem statusReadsItsFieldsAndClearsByOnes : Obligations.StatusReadsItsFieldsAndClearsByOnes := by
  intro s v
  obtain ⟨-, hbusy, hdone, hbusywr, hcode⟩ := statusWord_fields s
  exact ⟨rfl, hbusy, hdone, hbusywr, hcode, rfl, rfl, rfl, rfl, rfl, rfl, rfl, rfl, rfl, rfl⟩

/-- Settles O17: irq is computed from the two bits that reads of STATUS and IRQ_EN answer. -/
theorem irqIsDoneAndItsEnable : Obligations.IrqIsDoneAndItsEnable := by
  intro s v
  obtain ⟨-, -, hdone, -, -⟩ := statusWord_fields s
  refine ⟨by rw [← irqEnWord_eq]; rfl, rfl, ?_, rfl, rfl⟩
  rw [hdone, irqEnWord_bit0, State.irq]

/-- Settles O8: the registers of the reset state, and a BUF in which nothing is written. -/
theorem resetStateIsAsSpecified : Obligations.ResetStateIsAsSpecified :=
  fun _ => ⟨rfl, rfl, rfl, rfl, statusWord_eq_zero rfl rfl rfl rfl, rfl, rfl, rfl, rfl, irqEnWord_eq _, rfl,
    ArgFile.get_zero, fun _ => rfl⟩

/-! ## What the engine changes -/

/-- Everything an engine step that goes on can do: complete, and before it at most one MemWrite, inside BUF, of a command
that completes with OK (45_control R252, R253, 60_exceptions R264). -/
theorem engineStep_cases {s t : State} (h : engineStep s = .next t) :
    (∃ code, t = complete code s) ∨
      ∃ a B d, a + B.length ≤ s.bufSize ∧ t = complete .ok (drawn d (memWrite a B s)) := by
  unfold engineStep at h
  split at h
  · next code _ => injection h with h; exact .inl ⟨code, h.symm⟩
  · next i _ =>
    rcases exec_outcome i s with hd | ⟨e, -, -, hd⟩ | ⟨-, ⟨-, hd⟩ | ⟨q, B, d, -, hlen, hin, hd⟩⟩ <;>
      rw [h] at hd
    · cases hd
    all_goals injection hd with hd
    · exact .inl ⟨e, hd⟩
    · exact .inl ⟨.ok, hd⟩
    · exact .inr ⟨q.off, B, d, by omega, hd⟩

/-- The engine writes no register but STATUS (10_state R21, R26). -/
theorem engineStep_registers {s t : State} (h : engineStep s = .next t) : t.cmd = s.cmd ∧ t.args = s.args := by
  rcases engineStep_cases h with ⟨code, rfl⟩ | ⟨a, B, d, -, rfl⟩ <;> exact ⟨rfl, rfl⟩

/-- Settles O18: an ARG register is a field that only a host write while IDLE sets. -/
theorem argRegistersHoldWhatTheHostWrote : Obligations.ArgRegistersHoldWhatTheHostWrote := by
  refine ⟨fun s i v => ⟨fun hidle => ⟨setArg i v s, ?_, ?_, ?_, rfl⟩, fun hbusy => ?_, ?_, ArgFile.get_zero i⟩,
    fun _ _ h => (engineStep_registers h).2⟩
  · simp [hostAccess_wr32_arg, hidle]
  · simp [hostAccess_rd32_arg]
  · exact fun j hj => ArgFile.get_set_other _ v hj
  · rw [hostAccess_wr32_arg, if_pos hbusy]; rfl
  · exact hostAccess_rd32_arg i s

/-- Settles O19: CMD is a field that only a host write while IDLE sets, by issuing. -/
theorem cmdHoldsTheLastWord : Obligations.CmdHoldsTheLastWord := by
  refine ⟨fun s w => ⟨fun hidle => ⟨issue w s, ?_, by simp⟩, fun hbusy => ?_, rfl, rfl⟩,
    fun _ _ h => (engineStep_registers h).1⟩
  · simp [hostAccess_wr32_cmd, hidle]
  · rw [hostAccess_wr32_cmd, if_pos hbusy]; rfl

/-! ## The invariant

One rule for each named update of the state; each holds because the update leaves the fields a clause speaks of, or sets
them as the clause asks. -/

theorem resetOf_inv {n : Word} (h : Config.legalBufSize n.toNat = true) : (State.resetOf n).Inv :=
  ⟨h, resetOf_memOk n, fun hbusy => nomatch hbusy⟩

/-- Settles O10: 4096 is a BUF_SIZE the spec allows, and so is every other one the statement speaks of. -/
theorem resetMeetsTheInvariant : Obligations.ResetMeetsTheInvariant :=
  ⟨resetOf_inv (by decide), fun _ => resetOf_inv⟩

section
variable {s : State} (hi : s.Inv)
include hi

theorem State.Inv.withHost (g : HostAgent) : State.Inv { s with host := g } := ⟨hi.size, hi.mem, hi.busy⟩

theorem State.Inv.hostGoto (l : Nat) : (hostGoto l s).Inv := hi.withHost _

theorem State.Inv.setTurns (ts : List Turn) : (setTurns ts s).Inv := ⟨hi.size, hi.mem, hi.busy⟩

theorem State.Inv.drawn (n : Nat) : (drawn n s).Inv := ⟨hi.size, hi.mem, hi.busy⟩

theorem State.Inv.answer (r : Reply) : (answer r s).Inv := hi.withHost _

theorem State.Inv.dropWrite : (dropWrite s).Inv := ⟨hi.size, hi.mem, hi.busy⟩

theorem State.Inv.writeIrqEn (v : Word) : (writeIrqEn v s).Inv := ⟨hi.size, hi.mem, hi.busy⟩

/-- A STATUS write only clears DONE, which is 0 already while BUSY = 1. -/
theorem State.Inv.writeStatus (v : Word) : (writeStatus v s).Inv := by
  refine ⟨hi.size, hi.mem, fun hbusy => ?_⟩
  obtain ⟨hcmd, harg, hdone, hcode⟩ := hi.busy hbusy
  exact ⟨hcmd, harg, by simp [hdone], hcode⟩

/-- Issue copies into LATCH what CMD and the ARGs read from then on (45_control R250). -/
theorem State.Inv.issue (w : Word) : (issue w s).Inv := ⟨hi.size, hi.mem, fun _ => ⟨rfl, rfl, rfl, rfl⟩⟩

theorem State.Inv.complete (code : ErrCode) : (complete code s).Inv := ⟨hi.size, hi.mem, fun hbusy => nomatch hbusy⟩

theorem State.Inv.blockReset : (blockReset s).Inv := ⟨hi.size, resetOf_memOk s.bufsz, fun hbusy => nomatch hbusy⟩

theorem State.Inv.setArg (hidle : s.busy = false) (i : Fin 8) (v : Word) : (setArg i v s).Inv :=
  ⟨hi.size, hi.mem, fun hbusy => by simp [hidle] at hbusy⟩

theorem State.Inv.memWrite {a : Nat} {B : Bytes} (hin : a + B.length ≤ s.bufSize) : (memWrite a B s).Inv :=
  ⟨hi.size, memWrite_memOk hi.mem hin, hi.busy⟩

end

theorem engineStep_inv {s t : State} (hi : s.Inv) (h : engineStep s = .next t) : t.Inv ∧ t.bufsz = s.bufsz := by
  rcases engineStep_cases h with ⟨code, rfl⟩ | ⟨a, B, d, hin, rfl⟩
  · exact ⟨hi.complete code, rfl⟩
  · exact ⟨((hi.memWrite hin).drawn d).complete .ok, rfl⟩

theorem hostAccess_inv {a : HostAccess} {s t : State} (hi : s.Inv) (h : hostAccess a s = .next t) :
    t.Inv ∧ t.bufsz = s.bufsz := by
  rcases hostAccess_cases h with ⟨r, n, rfl⟩ | rfl | ⟨-, -, rfl⟩ | ⟨-, w, -, rfl⟩ | ⟨v, -, rfl⟩ | ⟨v, rfl⟩ |
    ⟨hidle, i, v, rfl⟩ | ⟨-, -, o, B, -, -, hin, rfl⟩
  · exact ⟨(hi.drawn n).answer r, rfl⟩
  · exact ⟨hi, rfl⟩
  · exact ⟨hi.dropWrite, rfl⟩
  · exact ⟨hi.issue w, rfl⟩
  · exact ⟨hi.writeStatus v, rfl⟩
  · exact ⟨hi.writeIrqEn v, rfl⟩
  · exact ⟨hi.setArg hidle i v, rfl⟩
  · exact ⟨hi.memWrite hin, rfl⟩

theorem hostStep_inv {s t : State} (hi : s.Inv) (h : hostStep s = .next t) : t.Inv ∧ t.bufsz = s.bufsz := by
  rcases hostStep_cases h with ⟨g, rfl⟩ | ⟨a, -, ha⟩
  · exact ⟨hi.withHost g, rfl⟩
  · exact (hostAccess_inv (hi.hostGoto _) ha :)

/-- Settles O11, by what each agent's step can do. -/
theorem everyStepKeepsTheInvariant : Obligations.EveryStepKeepsTheInvariant := by
  intro s t hi h
  obtain ⟨ts, ⟨-, rfl⟩ | ⟨-, -, rfl⟩ | ⟨-, -, he⟩ | ⟨-, hh⟩⟩ := step_cases h
  · exact ⟨(hi.setTurns ts).blockReset, rfl⟩
  · exact ⟨hi.setTurns ts, rfl⟩
  · exact (engineStep_inv (hi.setTurns ts) he :)
  · exact (hostStep_inv (hi.setTurns ts) hh :)

/-! ## What changes BUF -/

/-- A host access changes BUF only as a write to BUF while BUSY = 0 (20_memory R66). -/
theorem hostAccess_changes_mem {a : HostAccess} {s t : State} (h : hostAccess a s = .next t) (hm : t.mem ≠ s.mem) :
    s.busy = false ∧ ∃ o, 0x1000 ≤ o ∧ ((∃ v, a = .wr8 o v) ∨ ∃ v, a = .wr32 o v) := by
  rcases hostAccess_cases h with ⟨r, n, rfl⟩ | rfl | ⟨-, -, rfl⟩ | ⟨-, w, -, rfl⟩ | ⟨v, -, rfl⟩ | ⟨v, rfl⟩ |
    ⟨-, i, v, rfl⟩ | ⟨hidle, o, -, -, ha, ho, -, -⟩
  case inr.inr.inr.inr.inr.inr.inr => exact ⟨hidle, o, ho, ha⟩
  all_goals exact absurd rfl hm

theorem hostStep_changes_mem {s t : State} (h : hostStep s = .next t) (hm : t.mem ≠ s.mem) :
    s.busy = false ∧ ∃ o, 0x1000 ≤ o ∧
      ((∃ v, s.host.prog[s.host.pc]? = some (.access (.wr8 o v))) ∨
        ∃ v, s.host.prog[s.host.pc]? = some (.access (.wr32 o v))) := by
  rcases hostStep_cases h with ⟨g, rfl⟩ | ⟨a, hop, ha⟩
  · exact absurd rfl hm
  · obtain ⟨hidle, o, ho, ⟨v, rfl⟩ | ⟨v, rfl⟩⟩ := hostAccess_changes_mem ha hm
    exacts [⟨hidle, o, ho, .inl ⟨v, hop⟩⟩, ⟨hidle, o, ho, .inr ⟨v, hop⟩⟩]

/-- Settles O59, by what each agent's step can do. -/
theorem onlyNamedEventsChangeBuf : Obligations.OnlyNamedEventsChangeBuf := by
  intro s t h hm
  obtain ⟨ts, ⟨hturn, -⟩ | ⟨-, -, rfl⟩ | ⟨-, hbusy, he⟩ | ⟨-, hh⟩⟩ := step_cases h
  · exact .inl (by rw [hturn]; rfl)
  · exact absurd rfl hm
  · obtain ⟨hidle, -, -, herr⟩ := engineStep_status he
    exact .inr (.inl ⟨hbusy, hidle, by_contra fun hcode => hm (herr hcode)⟩)
  · exact .inr (.inr (hostStep_changes_mem (s := setTurns ts s) hh hm))

/-! ## What changes a flag -/

/-- The flags of `t` differ from those of `s` only as the events between them allow (10_state R27, 20_memory R66,
60_exceptions R263, R265, R270): a reset, a completion, a write dropped while BUSY = 1, a STATUS write with a bit set, and
issue, which is BUSY rising. -/
structure FlagLaw (s t : State) (reset completed dropped : Prop) (statusWrite : Nat → Prop) : Prop where
  errcode_changed : t.errcode ≠ s.errcode → reset ∨ (s.busy = false ∧ t.busy = true) ∨ completed
  done_set : s.done = false → t.done = true → completed
  done_cleared : s.done = true → t.done = false → reset ∨ (s.busy = false ∧ t.busy = true) ∨ statusWrite 1
  busywr_set : s.busywr = false → t.busywr = true → dropped
  busywr_cleared : s.busywr = true → t.busywr = false → reset ∨ statusWrite 2

section
variable {s t : State} {reset completed dropped : Prop} {statusWrite : Nat → Prop}

theorem FlagLaw.of_same (hcode : t.errcode = s.errcode) (hdone : t.done = s.done) (hwr : t.busywr = s.busywr) :
    FlagLaw s t reset completed dropped statusWrite where
  errcode_changed h := absurd hcode h
  done_set h h' := by simp [hdone, h] at h'
  done_cleared h h' := by simp [hdone, h] at h'
  busywr_set h h' := by simp [hwr, h] at h'
  busywr_cleared h h' := by simp [hwr, h] at h'

theorem FlagLaw.of_reset (hr : reset) (hdone : t.done = false) (hwr : t.busywr = false) :
    FlagLaw s t reset completed dropped statusWrite where
  errcode_changed _ := .inl hr
  done_set _ h := by simp [hdone] at h
  done_cleared _ _ := .inl hr
  busywr_set _ h := by simp [hwr] at h
  busywr_cleared _ _ := .inl hr

theorem FlagLaw.of_completed (hc : completed) (hdone : t.done = true) (hwr : t.busywr = s.busywr) :
    FlagLaw s t reset completed dropped statusWrite where
  errcode_changed _ := .inr (.inr hc)
  done_set _ _ := hc
  done_cleared _ h := by simp [hdone] at h
  busywr_set h h' := by simp [hwr, h] at h'
  busywr_cleared h h' := by simp [hwr, h] at h'

theorem FlagLaw.of_dropWrite (hd : dropped) : FlagLaw s (dropWrite s) reset completed dropped statusWrite where
  errcode_changed h := absurd rfl h
  done_set h h' := by simp [h] at h'
  done_cleared h h' := by simp [h] at h'
  busywr_set _ _ := hd
  busywr_cleared _ h := by simp at h

theorem FlagLaw.of_issue (hidle : s.busy = false) (w : Word) :
    FlagLaw s (issue w s) reset completed dropped statusWrite where
  errcode_changed _ := .inr (.inl ⟨hidle, rfl⟩)
  done_set _ h := by simp at h
  done_cleared _ _ := .inr (.inl ⟨hidle, rfl⟩)
  busywr_set h h' := by simp [h] at h'
  busywr_cleared h h' := by simp [h] at h'

theorem FlagLaw.of_writeStatus {v : Word} (hv : ∀ n, v.getLsbD n = true → statusWrite n) :
    FlagLaw s (writeStatus v s) reset completed dropped statusWrite where
  errcode_changed h := absurd rfl h
  done_set h h' := by simp [h] at h'
  done_cleared h h' := .inr (.inr (hv 1 (by simpa [h] using h')))
  busywr_set h h' := by simp [h] at h'
  busywr_cleared h h' := .inr (hv 2 (by simpa [h] using h'))

/-- The law speaks of the flags and BUSY alone. -/
theorem FlagLaw.congr_left {s' : State} (hbusy : s'.busy = s.busy) (hcode : s'.errcode = s.errcode)
    (hdone : s'.done = s.done) (hwr : s'.busywr = s.busywr) (hlaw : FlagLaw s t reset completed dropped statusWrite) :
    FlagLaw s' t reset completed dropped statusWrite := by
  obtain ⟨hcode', hset, hclear, hwrSet, hwrClear⟩ := hlaw
  exact ⟨by rwa [hcode, hbusy], by rwa [hdone], by rwa [hdone, hbusy], by rwa [hwr], by rwa [hwr]⟩

/-- The flags through one host access. -/
theorem hostAccess_flagLaw {a : HostAccess} (h : hostAccess a s = .next t)
    (hd : s.busy = true → s.operandWrite a → dropped)
    (hv : ∀ v, a = .wr32 0x014 v → ∀ n, v.getLsbD n = true → statusWrite n) :
    FlagLaw s t reset completed dropped statusWrite := by
  rcases hostAccess_cases h with ⟨r, n, rfl⟩ | rfl | ⟨hbusy, hop, rfl⟩ | ⟨hidle, w, -, rfl⟩ | ⟨v, ha, rfl⟩ | ⟨v, rfl⟩ |
    ⟨-, i, v, rfl⟩ | ⟨-, -, o, B, -, -, -, rfl⟩
  · exact .of_same rfl rfl rfl
  · exact .of_same rfl rfl rfl
  · exact .of_dropWrite (hd hbusy hop)
  · exact .of_issue hidle w
  · exact .of_writeStatus (hv v ha)
  · exact .of_same rfl rfl rfl
  · exact .of_same rfl rfl rfl
  · exact .of_same rfl rfl rfl

end

/-- The flags through one step. -/
theorem step_flagLaw {s t : State} (h : step s = .next t) :
    FlagLaw s t (s.turns.head? = some .reset) (s.busy = true ∧ t.busy = false)
      (s.busy = true ∧ s.turns.head? = some .host ∧
        ∃ a, s.host.prog[s.host.pc]? = some (.access a) ∧ s.operandWrite a)
      (fun n => ∃ v : Word, s.host.prog[s.host.pc]? = some (.access (.wr32 0x014 v)) ∧ v.getLsbD n = true) := by
  obtain ⟨ts, ⟨hturn, rfl⟩ | ⟨-, -, rfl⟩ | ⟨-, hbusy, he⟩ | ⟨hturn, hh⟩⟩ := step_cases h
  · exact .of_reset (by rw [hturn]; rfl) rfl rfl
  · exact .of_same rfl rfl rfl
  · obtain ⟨hidle, hdone, hwr, -⟩ := engineStep_status he
    exact .of_completed ⟨hbusy, hidle⟩ hdone hwr
  · rcases hostStep_cases hh with ⟨g, rfl⟩ | ⟨a, hop, ha⟩
    · exact .of_same rfl rfl rfl
    · have hostTurn (hbusy : s.busy = true) : s.turns.head? = some .host := by
        rcases hturn with ⟨-, -, hidle⟩ | hturn
        · rw [hidle] at hbusy; cases hbusy
        · rw [hturn]; rfl
      -- the host moving on to its next operation is no change of a flag, of BUSY or of BUF_SIZE
      refine FlagLaw.congr_left (s := hostGoto (s.host.pc + 1) (setTurns ts s)) rfl rfl rfl rfl
        (hostAccess_flagLaw ha (fun hbusy hw => ?_) fun v hav n hn => ?_)
      · exact ⟨hbusy, hostTurn hbusy, a, hop, hw⟩
      · exact ⟨v, hav ▸ hop, hn⟩

/-- Settles O60, by the flags through each agent's step. -/
theorem flagsChangeOnlyAsNamed : Obligations.FlagsChangeOnlyAsNamed := by
  intro s t h
  obtain ⟨hcode, hset, hclear, hwrSet, hwrClear⟩ := step_flagLaw h
  exact ⟨hcode, hset, hclear, hwrSet, hwrClear⟩

/-! ## What a command reads -/

/-- A result with a change made to the state it goes on with. -/
def mapNext (f : State → State) : Result → Result
  | .next t => .next (f t)
  | .fault r => .fault r
  | .refused r => .refused r

/-- What a command must not depend on, set anew: CMD, the ARGs, BUSYWR, DONE_IE (10_state R31) and the latched ARG5 and
ARG6 (30_encoding R97). -/
structure Unread where
  cmd : Word
  args : ArgFile
  busywr : Bool
  doneIe : Bool
  x5 : Word
  x6 : Word

/-- The state with the fields a command does not read set anew. -/
def Unread.put (p : Unread) (s : State) : State :=
  { s with cmd := p.cmd, args := p.args, busywr := p.busywr, doneIe := p.doneIe,
           latch := { s.latch with arg := { s.latch.arg with x5 := p.x5, x6 := p.x6 } } }

section
variable {p : Unread} {s : State}

theorem checked_put {o o' : Operands} {k k' : Result} (ho : o' = o) (hk : k' = mapNext p.put k) :
    checked o' (p.put s) k' = mapNext p.put (checked o s k) := by
  subst ho hk
  rcases checked_cases o' s k with ⟨hc, h⟩ | ⟨e, he, -, hc, h⟩
  · rw [h, checked_of_ok (s := p.put s) hc]
  · rw [h, checked_of_error (s := p.put s) (by rw [← hc] at he; exact he)]
    exact congrArg (fun e => Host.Outcome.next (complete e (p.put s))) hc

theorem memRead_put {a : Word} {n : Nat} {k k' : Bytes → Result} (hk : ∀ B, k' B = mapNext p.put (k B)) :
    memRead (p.put s) a n k' = mapNext p.put (memRead s a n k) := by
  rcases memRead_cases s a n k with ⟨B, hB, -, h⟩ | ⟨hB, h⟩
  · rw [h, memRead_of_some (s := p.put s) k' hB, hk]
  · rw [h, memRead, show (p.put s).mem = s.mem from rfl, hB]; rfl

theorem readConstant_put {alt : Bool} {k k' : Bytes → Result} (hk : ∀ B, k' B = mapNext p.put (k B)) :
    readConstant alt (p.put s) k' = mapNext p.put (readConstant alt s k) := by
  cases alt with
  | false => exact hk sigma
  | true => exact memRead_put hk

/-- The explicit-counter form raises its error before anything is read (42_salsa20 R187). -/
theorem unlessIc_put {ic : Bool} {k k' : Result} (hk : k' = mapNext p.put k) :
    (if ic then raiseErr .unsupported (p.put s) else k') =
      mapNext p.put (if ic then raiseErr .unsupported s else k) := by
  cases ic with
  | false => exact hk
  | true => rfl

theorem write_put {a : Nat} {B : Bytes} :
    succeed (memWrite a B (p.put s)) = mapNext p.put (succeed (memWrite a B s)) := rfl

theorem drawn_write_put {a n : Nat} {B : Bytes} :
    succeed (drawn n (memWrite a B (p.put s))) = mapNext p.put (succeed (drawn n (memWrite a B s))) := rfl

end

/-- A command computes the same result whatever the fields it does not read hold, and leaves those fields. -/
theorem exec_put (p : Unread) (i : Instr) (s : State) : exec i (p.put s) = mapNext p.put (exec i s) := by
  cases i with
  | nop => rfl
  | clamp => exact checked_put rfl <| memRead_put fun _ => write_put
  | x25519Raw => exact checked_put rfl <| memRead_put fun _ => memRead_put fun _ => write_put
  | x25519 => exact checked_put rfl <| memRead_put fun _ => memRead_put fun _ => write_put
  | x25519Base => exact checked_put rfl <| memRead_put fun _ => write_put
  | salsa20Rounds alt =>
    exact checked_put rfl <| memRead_put fun _ => memRead_put fun _ => readConstant_put fun _ => write_put
  | salsa20Block alt =>
    exact checked_put rfl <| memRead_put fun _ => memRead_put fun _ => readConstant_put fun _ => write_put
  | hsalsa20 alt =>
    exact checked_put rfl <| memRead_put fun _ => memRead_put fun _ => readConstant_put fun _ => write_put
  | salsa20Xor ic =>
    exact unlessIc_put <| checked_put rfl <| memRead_put fun _ => memRead_put fun _ => memRead_put fun _ => write_put
  | xsalsa20Xor ic =>
    exact unlessIc_put <| checked_put rfl <| memRead_put fun _ => memRead_put fun _ => memRead_put fun _ => write_put
  | salsa20Stream ic => exact unlessIc_put <| checked_put rfl <| memRead_put fun _ => memRead_put fun _ => write_put
  | xsalsa20Stream ic => exact unlessIc_put <| checked_put rfl <| memRead_put fun _ => memRead_put fun _ => write_put
  | poly1305 => exact checked_put rfl <| memRead_put fun _ => memRead_put fun _ => write_put
  | poly1305Verify =>
    refine checked_put rfl <| memRead_put fun tag => memRead_put fun msg => memRead_put fun key => ?_
    cases tagsEqual tag (poly1305Tag key msg) <;> rfl
  | boxBeforenm => exact checked_put rfl <| memRead_put fun _ => memRead_put fun _ => write_put
  | boxAfternm => exact checked_put rfl <| memRead_put fun _ => memRead_put fun _ => memRead_put fun _ => drawn_write_put
  | boxOpenAfternm =>
    refine checked_put rfl <| memRead_put fun C => memRead_put fun key => memRead_put fun n => ?_
    cases boxOpenAfternm key n C <;> rfl
  | boxEncryptSym => exact checked_put rfl <| memRead_put fun _ => memRead_put fun _ => memRead_put fun _ => write_put
  | boxDecryptSym =>
    refine checked_put rfl <| memRead_put fun C => memRead_put fun key => memRead_put fun n => ?_
    cases boxDecryptSym key n C <;> rfl

/-- Settles O29: setting the unread fields anew commutes with every command. -/
theorem engineReadsOnlyLatchAndBuf : Obligations.EngineReadsOnlyLatchAndBuf := by
  intro i s c v5 v6 a wr ie
  refine (exec_put ⟨c, a, wr, ie, v5, v6⟩ i s).trans ?_
  cases exec i s <;> rfl

end Sys2Proof.Machine

/-! SUPPORT. Proofs of the statements of 20_memory.md: byte lanes, host accesses to BUF, their faults, what a host read
leaves unchanged, whose step it is, and what stands still while BUSY = 1. -/

namespace Sys2Proof.Machine

/-! ## Whose step it is -/

/-- Settles O6: one line of the step for each state of the list of turns. -/
theorem stepFollowsTheTurns : Obligations.StepFollowsTheTurns := by
  intro s ts
  have listed {x : Turn} (hturn : s.turns = x :: ts) : step s = takeTurn x { s with turns := ts } := by
    rw [step, stepOnce, hturn]; rfl
  have unlisted (hturn : s.turns = []) : step s = if s.busy then engineStep s else hostStep s := by
    rw [step, stepOnce, hturn]
  refine ⟨listed, fun hturn hbusy => ?_, fun hturn hidle => ?_, fun hturn hbusy => ?_, fun hturn hidle => ?_⟩
  · exact (listed hturn).trans (if_pos hbusy)
  · exact (listed hturn).trans (if_neg (by simp [hidle]))
  · exact (unlisted hturn).trans (if_pos hbusy)
  · exact (unlisted hturn).trans (if_neg (by simp [hidle]))

/-! ## Byte lanes -/

/-- Byte i of an encoding is the value's bits 8i+7 to 8i (00_scope R10). -/
theorem getElem_leN {n v i : Nat} (h : i < (leN n v).length) : (leN n v)[i] = BitVec.ofNat 8 (v / 256 ^ i) := by
  induction n generalizing v i with
  | zero => cases h
  | succ n ih =>
    cases i with
    | zero => simp [leN]
    | succ i =>
      rw [leN] at h
      simp only [leN, List.getElem_cons_succ, ih (by simpa using h)]
      rw [Nat.div_div_eq_div_mul, pow_succ']

/-- Byte j of a word travels on its bits 8j+7 to 8j (20_memory R61). -/
theorem getElem_wordBytes {v : Word} {j : Nat} (h : j < (wordBytes v).length) :
    (wordBytes v)[j] = v.extractLsb' (8 * j) 8 := by
  refine (getElem_leN h).trans (BitVec.eq_of_toNat_eq ?_)
  rw [BitVec.toNat_ofNat, BitVec.extractLsb'_toNat, Nat.shiftRight_eq_div_pow, pow_mul,
    show (2 : ℕ) ^ 8 = 256 from rfl]

/-- The lanes of a word's bytes give the word back (20_memory R61). -/
theorem wordReply_wordBytes (v : Word) : wordReply (wordBytes v) = .word v := by
  have hle : le (wordBytes v) = v.toNat := (le_leN 4 _).trans (Nat.mod_eq_of_lt v.isLt)
  rw [wordReply, laneWord, hle, BitVec.ofNat_toNat, BitVec.setWidth_eq]

theorem byteReply_singleton (b : Byte) : byteReply [b] = .byte b := by
  simp [byteReply, le]

/-! ## Reads and writes of BUF -/

/-- Reading a string fails exactly where one of its bytes is unwritten (10_state R34). -/
theorem Memory.readBytes_eq_none_iff (m : Memory) (a n : Nat) :
    Memory.readBytes m a n = none ↔ ∃ j, j < n ∧ Memory.read m (a + j) = none := by
  induction n generalizing a with
  | zero => simp [Memory.readBytes]
  | succ n ih =>
    have hsplit : Memory.readBytes m a (n + 1) = none ↔
        Memory.read m a = none ∨ Memory.readBytes m (a + 1) n = none := by
      rw [Memory.readBytes]
      cases Memory.read m a <;> cases Memory.readBytes m (a + 1) n <;> simp
    rw [hsplit, ih]
    constructor
    · rintro (h | ⟨j, hj, h⟩)
      · exact ⟨0, by omega, h⟩
      · exact ⟨j + 1, by omega, by rwa [Nat.add_assoc, Nat.add_comm 1 j] at h⟩
    · rintro ⟨_ | j, hj, h⟩
      · exact .inl h
      · exact .inr ⟨j, by omega, by rwa [Nat.add_assoc, Nat.add_comm 1 j]⟩

theorem Memory.readBytes_one {m : Memory} {a : Nat} {b : Byte} (h : Memory.read m a = some b) :
    Memory.readBytes m a 1 = some [b] := by
  rw [Memory.readBytes, h]; rfl

section
variable {s : State}

theorem readBuf_busy (hbusy : s.busy = true) (a n : Nat) (f : Bytes → Reply) :
    readBuf a n f s = .next (answer (f (freeBytes s.draws n)) (drawn n s)) := if_pos hbusy

theorem readBuf_idle (hidle : s.busy = false) {a n : Nat} (f : Bytes → Reply) {B : Bytes}
    (hB : Memory.readBytes s.mem a n = some B) : readBuf a n f s = .next (answer (f B) s) := by
  simp [readBuf, hidle, hB]

theorem writeBuf_busy (hbusy : s.busy = true) (a : Nat) (B : Bytes) : writeBuf a B s = .next (dropWrite s) :=
  if_pos hbusy

theorem writeBuf_idle (hidle : s.busy = false) (a : Nat) (B : Bytes) : writeBuf a B s = .next (memWrite a B s) := by
  simp [writeBuf, hidle]

/-- A read of BUF has one fault, UninitRead, of an idle read alone (20_memory R67, 10_state R34). -/
theorem readBuf_eq_fault_iff (a n : Nat) (f : Bytes → Reply) (e : Fault) :
    readBuf a n f s = .fault e ↔
      e = .uninitRead ∧ s.busy = false ∧ ∃ j, j < n ∧ Memory.read s.mem (a + j) = none := by
  rw [← Memory.readBytes_eq_none_iff]
  cases hbusy : s.busy with
  | true => simp [readBuf_busy hbusy]
  | false =>
    cases hB : Memory.readBytes s.mem a n with
    | none => simp [readBuf, hbusy, hB, eq_comm]
    | some B => simp [readBuf_idle hbusy f hB]

theorem writeBuf_ne_fault (a : Nat) (B : Bytes) (e : Fault) : writeBuf a B s ≠ .fault e := by
  cases hbusy : s.busy with
  | true => simp [writeBuf_busy hbusy]
  | false => simp [writeBuf_idle hbusy]

/-! ## Host accesses to BUF -/

theorem inBuf_buf {a n : Nat} (ha : a + n ≤ s.bufSize) : inBuf s (0x1000 + a) n = true :=
  (inBuf_iff ..).mpr (by unfold bufBase; omega)

theorem hostAccess_rd8_buf {a : Nat} (ha : a < s.bufSize) :
    hostAccess (.rd8 (0x1000 + a)) s = readBuf a 1 byteReply s := by
  rw [hostAccess, if_pos (inBuf_buf ha), bufBase, Nat.add_sub_cancel_left]

theorem hostAccess_wr8_buf {a : Nat} (ha : a < s.bufSize) (b : Byte) :
    hostAccess (.wr8 (0x1000 + a) b) s = writeBuf a [b] s := by
  rw [hostAccess, if_pos (inBuf_buf ha), bufBase, Nat.add_sub_cancel_left]

theorem hostAccess_rd32_buf {a : Nat} (halign : a % 4 = 0) (ha : a + 4 ≤ s.bufSize) :
    hostAccess (.rd32 (0x1000 + a)) s = readBuf a 4 wordReply s := by
  rw [hostAccess, if_pos (by omega), if_neg (by unfold bufBase; omega), if_pos (inBuf_buf ha), bufBase,
    Nat.add_sub_cancel_left]

theorem hostAccess_wr32_buf {a : Nat} (halign : a % 4 = 0) (ha : a + 4 ≤ s.bufSize) (v : Word) :
    hostAccess (.wr32 (0x1000 + a) v) s = writeBuf a (wordBytes v) s := by
  rw [hostAccess, if_pos (by omega), if_neg (by unfold bufBase; omega), if_pos (inBuf_buf ha), bufBase,
    Nat.add_sub_cancel_left]

end

theorem hostAccess_otherWidth (bits h : Nat) (s : State) :
    hostAccess (.otherWidth bits h) s = .fault .badHostAccess := rfl

/-- Where an 8-bit access goes: outside BUF it is BadHostAccess, else it is of one byte of BUF (20_memory R63, R68). -/
theorem hostAccess_byte_cases (s : State) (h : Nat) :
    ((h < 0x1000 ∨ 0x1000 + s.bufSize ≤ h) ∧ hostAccess (.rd8 h) s = .fault .badHostAccess ∧
      ∀ b, hostAccess (.wr8 h b) s = .fault .badHostAccess) ∨
    ∃ a, h = 0x1000 + a ∧ a < s.bufSize := by
  by_cases hin : inBuf s h 1 = true
  · obtain ⟨hlo, hhi⟩ := (inBuf_iff s h 1).mp hin
    unfold bufBase at hlo hhi
    exact .inr ⟨h - 0x1000, by omega, by omega⟩
  · refine .inl ⟨?_, if_neg hin, fun b => if_neg hin⟩
    rw [inBuf_iff, bufBase] at hin
    omega

/-- Where a 32-bit access goes: misaligned or not wholly inside the window it is BadHostAccess, else it is of a register
offset or of four bytes of BUF (20_memory R62, R63, R68). -/
theorem hostAccess_word_cases (s : State) (h : Nat) :
    ((h % 4 ≠ 0 ∨ 0x1000 ≤ h ∧ 0x1000 + s.bufSize < h + 4) ∧ hostAccess (.rd32 h) s = .fault .badHostAccess ∧
      ∀ v, hostAccess (.wr32 h v) s = .fault .badHostAccess) ∨
    (h % 4 = 0 ∧ h < bufBase) ∨
    ∃ a, h = 0x1000 + a ∧ a % 4 = 0 ∧ a + 4 ≤ s.bufSize := by
  by_cases halign : h % 4 = 0
  · by_cases hlow : h < bufBase
    · exact .inr (.inl ⟨halign, hlow⟩)
    by_cases hin : inBuf s h 4 = true
    · obtain ⟨hlo, hhi⟩ := (inBuf_iff s h 4).mp hin
      unfold bufBase at hlo hhi
      exact .inr (.inr ⟨h - 0x1000, by omega, by omega, by omega⟩)
    · refine .inl ⟨.inr ?_, by simp [hostAccess, halign, hlow, hin], fun v => by simp [hostAccess, halign, hlow, hin]⟩
      rw [inBuf_iff] at hin
      unfold bufBase at hin hlow
      omega
  · exact .inl ⟨.inl halign, if_neg halign, fun v => if_neg halign⟩

section
variable (s : State) (h : Nat) (e : Fault)

theorem hostAccess_rd8_eq_fault_iff :
    hostAccess (.rd8 h) s = .fault e ↔
      e = .badHostAccess ∧ (h < 0x1000 ∨ 0x1000 + s.bufSize ≤ h) ∨
      e = .uninitRead ∧ s.busy = false ∧ 0x1000 ≤ h ∧ h < 0x1000 + s.bufSize ∧
        Memory.read s.mem (h - 0x1000) = none := by
  rcases hostAccess_byte_cases s h with ⟨hout, hrd, -⟩ | ⟨a, rfl, ha⟩
  · have hnot : ¬(0x1000 ≤ h ∧ h < 0x1000 + s.bufSize ∧ Memory.read s.mem (h - 0x1000) = none) := by omega
    simp only [hrd, hout, hnot, and_true, and_false, or_false, Host.Outcome.fault.injEq, @eq_comm _ _ e]
  · simp [hostAccess_rd8_buf ha, readBuf_eq_fault_iff, ha]

theorem hostAccess_wr8_eq_fault_iff (b : Byte) :
    hostAccess (.wr8 h b) s = .fault e ↔ e = .badHostAccess ∧ (h < 0x1000 ∨ 0x1000 + s.bufSize ≤ h) := by
  rcases hostAccess_byte_cases s h with ⟨hout, -, hwr⟩ | ⟨a, rfl, ha⟩
  · simp only [hwr, hout, and_true, Host.Outcome.fault.injEq, @eq_comm _ _ e]
  · simp [hostAccess_wr8_buf ha, writeBuf_ne_fault, ha]

variable {s} (hsize : s.bufSize % 4 = 0)
include hsize

theorem hostAccess_rd32_eq_fault_iff :
    hostAccess (.rd32 h) s = .fault e ↔
      e = .badHostAccess ∧ (h % 4 ≠ 0 ∨ 0x1000 + s.bufSize ≤ h) ∨
      e = .uninitRead ∧ s.busy = false ∧ h % 4 = 0 ∧ 0x1000 ≤ h ∧ h < 0x1000 + s.bufSize ∧
        ∃ j, j < 4 ∧ Memory.read s.mem (h - 0x1000 + j) = none := by
  rcases hostAccess_word_cases s h with ⟨hbad, hrd, -⟩ | ⟨halign, hlow⟩ | ⟨a, rfl, halign, ha⟩
  · have hout : h % 4 ≠ 0 ∨ 0x1000 + s.bufSize ≤ h := by omega
    have hnot : ¬(h % 4 = 0 ∧ 0x1000 ≤ h ∧ h < 0x1000 + s.bufSize ∧
        ∃ j, j < 4 ∧ Memory.read s.mem (h - 0x1000 + j) = none) := by omega
    simp only [hrd, hout, hnot, and_true, and_false, or_false, Host.Outcome.fault.injEq, @eq_comm _ _ e]
  · unfold bufBase at hlow
    have hin : ¬(h % 4 ≠ 0 ∨ 0x1000 + s.bufSize ≤ h) := by omega
    have hnot : ¬0x1000 ≤ h := by omega
    simp [hostAccess_rd32_reg s halign hlow, hin, hnot]
  · have hword : (0x1000 + a) % 4 = 0 := by omega
    have hin : a < s.bufSize := by omega
    simp [hostAccess_rd32_buf halign ha, readBuf_eq_fault_iff, hword, hin]

theorem hostAccess_wr32_eq_fault_iff (v : Word) :
    hostAccess (.wr32 h v) s = .fault e ↔ e = .badHostAccess ∧ (h % 4 ≠ 0 ∨ 0x1000 + s.bufSize ≤ h) := by
  rcases hostAccess_word_cases s h with ⟨hbad, -, hwr⟩ | ⟨halign, hlow⟩ | ⟨a, rfl, halign, ha⟩
  · have hout : h % 4 ≠ 0 ∨ 0x1000 + s.bufSize ≤ h := by omega
    simp only [hwr, hout, and_true, Host.Outcome.fault.injEq, @eq_comm _ _ e]
  · have hin : ¬(h % 4 ≠ 0 ∨ 0x1000 + s.bufSize ≤ h) := by unfold bufBase at hlow; omega
    simp [hostAccess_wr32_reg v s halign hlow, hin]
  · have hword : (0x1000 + a) % 4 = 0 := by omega
    have hin : a < s.bufSize := by omega
    simp [hostAccess_wr32_buf halign ha, writeBuf_ne_fault, hword, hin]

end

/-- Settles O21: which fault each kind of access can be, at both faults. -/
theorem hostAccessFaultsExactly : Obligations.HostAccessFaultsExactly := by
  intro s h b v bits hlegal
  have hsize : s.bufSize % 4 = 0 := by
    simp only [Config.legalBufSize, Bool.and_eq_true, beq_iff_eq] at hlegal
    omega
  simp [hostAccess_rd8_eq_fault_iff, hostAccess_wr8_eq_fault_iff, hostAccess_rd32_eq_fault_iff _ _ hsize,
    hostAccess_wr32_eq_fault_iff _ _ hsize, hostAccess_otherWidth]

/-! ## Words written and read -/

/-- An idle 8-bit read answers the byte at its offset (20_memory R63). -/
theorem hostAccess_rd8_idle {s : State} (hidle : s.busy = false) {a : Nat} {b : Byte} (ha : a < s.bufSize)
    (hb : Memory.read s.mem a = some b) : hostAccess (.rd8 (0x1000 + a)) s = .next (answer (.byte b) s) := by
  rw [hostAccess_rd8_buf ha, readBuf_idle hidle _ (Memory.readBytes_one hb), byteReply_singleton]

/-- An idle aligned 32-bit read answers its four bytes on their lanes (20_memory R61). -/
theorem hostAccess_rd32_idle {s : State} (hidle : s.busy = false) {a : Nat} {B : Bytes} (halign : a % 4 = 0)
    (ha : a + 4 ≤ s.bufSize) (hB : Memory.readBytes s.mem a 4 = some B) :
    hostAccess (.rd32 (0x1000 + a)) s = .next (answer (wordReply B) s) := by
  rw [hostAccess_rd32_buf halign ha, readBuf_idle hidle _ hB]

/-- Settles O20: a word written is read back lane by lane, from the bytes of its encoding. -/
theorem wordAccessesUseLittleEndianLanes : Obligations.WordAccessesUseLittleEndianLanes := by
  intro s a v hidle halign ha
  have lane {j : Nat} (hj : j < 4) :
      Memory.read (Memory.writeBytes s.mem a (wordBytes v)) (a + j) = some (v.extractLsb' (8 * j) 8) := by
    have hj' : j < (wordBytes v).length := by rwa [wordBytes_length]
    rw [Memory.read_writeBytes_inside _ _ hj', getElem_wordBytes]
  have back : Memory.readBytes (Memory.writeBytes s.mem a (wordBytes v)) a 4 = some (wordBytes v) := by
    simpa using Memory.readBytes_writeBytes s.mem a (wordBytes v)
  refine ⟨fun B hB => hostAccess_rd32_idle hidle halign ha hB, memWrite a (wordBytes v) s, ?_, rfl,
    fun j hj => ⟨lane hj, ?_⟩, ?_, fun x hx => ?_⟩
  · exact (hostAccess_wr32_buf halign ha v).trans (writeBuf_idle hidle _ _)
  · have hin : a + j < s.bufSize := by omega
    rw [Nat.add_assoc]
    exact hostAccess_rd8_idle (s := memWrite a (wordBytes v) s) hidle hin (lane hj)
  · rw [← wordReply_wordBytes]
    exact hostAccess_rd32_idle (s := memWrite a (wordBytes v) s) hidle halign ha back
  · exact Memory.read_writeBytes_outside _ _ (by rwa [wordBytes_length])

/-! ## Host reads -/

/-- What a host read does, whatever BUF holds: answer a register, read BUF, or BadHostAccess (20_memory R62, R63, R68). -/
theorem hostRead_cases {a : HostAccess} (s : State) (ha : ∃ h, a = .rd8 h ∨ a = .rd32 h) :
    (∃ r, ∀ m, hostAccess a { s with mem := m } = .next (answer r { s with mem := m })) ∨
    (∃ o n f, ∀ m, hostAccess a { s with mem := m } = readBuf o n f { s with mem := m }) ∨
    hostAccess a s = .fault .badHostAccess := by
  obtain ⟨h, rfl | rfl⟩ := ha
  · rcases hostAccess_byte_cases s h with ⟨-, hbad, -⟩ | ⟨o, rfl, ho⟩
    · exact .inr (.inr hbad)
    · exact .inr (.inl ⟨o, 1, byteReply, fun _ => hostAccess_rd8_buf ho⟩)
  · rcases hostAccess_word_cases s h with ⟨-, hbad, -⟩ | ⟨halign, hlow⟩ | ⟨o, rfl, halign, ho⟩
    · exact .inr (.inr hbad)
    · exact .inl ⟨.word (readReg s (regAt h)), fun m => hostAccess_rd32_reg { s with mem := m } halign hlow⟩
    · exact .inr (.inl ⟨o, 4, wordReply, fun _ => hostAccess_rd32_buf halign ho⟩)

/-- Settles O22: a register read and a read of BUF both end in an answer, and only an idle read of BUF looks at it. -/
theorem hostReadsHaveNoSideEffect : Obligations.HostReadsHaveNoSideEffect := by
  intro s t a ha hnext
  rcases hostRead_cases s ha with ⟨r, hreg⟩ | ⟨o, n, f, hbuf⟩ | hbad
  · obtain rfl : answer r s = t := Host.Outcome.next.inj ((hreg s.mem).symm.trans hnext)
    exact ⟨⟨r, 0, rfl⟩, fun _ => ⟨r, rfl⟩, fun _ m => hreg m⟩
  · rcases readBuf_cases ((hbuf s.mem).symm.trans hnext) with ⟨hbusy, rfl⟩ | ⟨hidle, B, -, rfl⟩
    · refine ⟨⟨_, n, rfl⟩, fun hidle => ?_, fun _ m => ?_⟩
      · rw [hbusy] at hidle; cases hidle
      · exact (hbuf m).trans (readBuf_busy (s := { s with mem := m }) hbusy o n f)
    · refine ⟨⟨f B, 0, rfl⟩, fun _ => ⟨f B, rfl⟩, fun hbusy => ?_⟩
      rw [hidle] at hbusy; cases hbusy
  · rw [hbad] at hnext; cases hnext

/-! ## What BUSY = 1 protects -/

/-- Settles O15: an operand write comes to a dropped write, and every other one to its line of the register map. -/
theorem writesWhileBusyAreDropped : Obligations.WritesWhileBusyAreDropped := by
  intro s v b hbusy
  refine ⟨?_, fun i => ?_, fun a ha => ?_, fun a halign ha => ?_, rfl, rfl, fun h halign hh => ?_⟩
  · exact (hostAccess_wr32_cmd v s).trans (by rw [if_pos hbusy]; rfl)
  · exact (hostAccess_wr32_arg i v s).trans (by rw [if_pos hbusy]; rfl)
  · exact (hostAccess_wr8_buf ha b).trans (writeBuf_busy hbusy _ _)
  · exact (hostAccess_wr32_buf halign ha v).trans (writeBuf_busy hbusy _ _)
  · have hcases : h = 0x000 ∨ h = 0x004 ∨ h = 0x008 ∨ (h = 0x00C ∨ h = 0x01C ∨ 0x040 ≤ h ∧ h ≤ 0xFFC) := by omega
    rcases hcases with rfl | rfl | rfl | hres
    · rfl
    · rfl
    · rfl
    · rw [hostAccess_wr32_reg v s halign (by unfold bufBase; omega), regAt_reserved hres]; rfl

/-- What a command runs on, and ERRCODE, are the same in both states (20_memory R79). -/
def State.SameOperands (s t : State) : Prop :=
  t.cmd = s.cmd ∧ t.args = s.args ∧ t.latch = s.latch ∧ t.mem = s.mem ∧ t.bufsz = s.bufsz ∧ t.errcode = s.errcode

/-- No host access changes the operands of an issued command (20_memory R66). -/
theorem hostAccess_sameOperands {a : HostAccess} {s t : State} (hbusy : s.busy = true)
    (h : hostAccess a s = .next t) : s.SameOperands t := by
  have notIdle : s.busy ≠ false := by simp [hbusy]
  rcases hostAccess_cases h with ⟨r, n, rfl⟩ | rfl | ⟨-, -, rfl⟩ | ⟨hidle, -⟩ | ⟨v, -, rfl⟩ | ⟨v, rfl⟩ |
    ⟨hidle, -⟩ | ⟨hidle, -⟩
  case inr.inr.inr.inl => exact absurd hidle notIdle
  case inr.inr.inr.inr.inr.inr.inl => exact absurd hidle notIdle
  case inr.inr.inr.inr.inr.inr.inr => exact absurd hidle notIdle
  all_goals exact ⟨rfl, rfl, rfl, rfl, rfl, rfl⟩

theorem hostStep_sameOperands {s t : State} (hbusy : s.busy = true) (h : hostStep s = .next t) :
    s.SameOperands t := by
  rcases hostStep_cases h with ⟨g, rfl⟩ | ⟨a, -, ha⟩
  · exact ⟨rfl, rfl, rfl, rfl, rfl, rfl⟩
  · exact (hostAccess_sameOperands (s := hostGoto (s.host.pc + 1) s) hbusy ha :)

/-- Settles O58: a reset and an engine step end BUSY, so what leaves the command issued is a host step. -/
theorem busyHoldsOperandsStill : Obligations.BusyHoldsOperandsStill := by
  intro s t hbusy h hstays
  obtain ⟨ts, ⟨-, rfl⟩ | ⟨-, hidle, -⟩ | ⟨-, -, he⟩ | ⟨-, hh⟩⟩ := step_cases h
  · cases hstays
  · rw [hbusy] at hidle; cases hidle
  · obtain ⟨hends, -⟩ := engineStep_status he
    rw [hstays] at hends; cases hends
  · exact (hostStep_sameOperands (s := setTurns ts s) hbusy hh :)

end Sys2Proof.Machine

/-! SUPPORT. Proofs of the statements of 30_encoding.md: the command word and its fields, the opcode map, the words that
select no form, and host programs run as they expand. -/

namespace Sys2Proof.Machine

/-! ## The command word and its fields -/

/-- The command word as the sum of R104: OP, A and I share no bit. -/
theorem commandWord_toNat (op : Byte) (alt ic : Bool) :
    (commandWord op alt ic).toNat = ic.toNat * 2 ^ 9 + alt.toNat * 2 ^ 8 + op.toNat := by
  have hop : op.toNat < 2 ^ 8 := op.isLt
  have hlow : alt.toNat <<< 8 + op.toNat < 2 ^ 9 := by have := alt.toNat_le; omega
  have hor : (commandWord op alt ic).toNat = ic.toNat <<< 9 ||| (alt.toNat <<< 8 ||| op.toNat) := by
    rw [← Nat.or_assoc]
    have hword : op.toNat < 4294967296 := by omega
    cases alt <;> cases ic <;> simp [commandWord, Nat.mod_eq_of_lt, hword]
  rw [hor, ← Nat.shiftLeft_add_eq_or_of_lt hop, ← Nat.shiftLeft_add_eq_or_of_lt hlow]
  omega

theorem fieldOP_toNat (w : Word) : (fieldOP w).toNat = w.toNat % 256 := by
  simp [fieldOP]

theorem fieldA_toNat (w : Word) : (fieldA w).toNat = w.toNat / 256 % 2 := Nat.toNat_testBit _ 8

theorem fieldI_toNat (w : Word) : (fieldI w).toNat = w.toNat / 512 % 2 := Nat.toNat_testBit _ 9

/-- RES = 0 says that the word is below 2^10 (30_encoding R91). -/
theorem fieldRES_eq_zero_iff (w : Word) : fieldRES w = 0#22 ↔ w.toNat / 2 ^ 10 = 0 := by
  have hw : w.toNat < 2 ^ 32 := w.isLt
  rw [← BitVec.toNat_inj, fieldRES, BitVec.extractLsb'_toNat, Nat.shiftRight_eq_div_pow, BitVec.toNat_ofNat]
  omega

/-- A word is a command's word iff RES is 0 and its other fields are the command's (30_encoding R91, R104). -/
theorem commandWord_eq_iff (op : Byte) (alt ic : Bool) (w : Word) :
    commandWord op alt ic = w ↔ fieldRES w = 0#22 ∧ op = fieldOP w ∧ alt = fieldA w ∧ ic = fieldI w := by
  have hop : op.toNat < 256 := op.isLt
  have halt := alt.toNat_le
  have hic := ic.toNat_le
  have hinj : Function.Injective Bool.toNat := Function.LeftInverse.injective Bool.ofNat_toNat
  rw [← BitVec.toNat_inj, commandWord_toNat, fieldRES_eq_zero_iff, ← BitVec.toNat_inj (x := op),
    ← hinj.eq_iff (a := alt), ← hinj.eq_iff (a := ic), fieldOP_toNat, fieldA_toNat, fieldI_toNat]
  omega

/-! ## The opcode map -/

theorem decode_of_reserved {w : Word} (hres : fieldRES w ≠ 0#22) : decode w = .error .reserved := if_neg hres

theorem decode_of_fields {w : Word} (hres : fieldRES w = 0#22) :
    decode w = decodeOP (fieldOP w) (fieldA w) (fieldI w) := if_pos hres

/-- What the opcode map says of one opcode: its command and the flags its row leaves open, or ERR_OPCODE
(30_encoding R93, R94, R98, R99). -/
inductive OpcodeRow (op : Byte) (alt ic : Bool) : Except ErrCode Instr → Prop
  | plain (i : Instr) (hop : i.op = op) (halt : i.altBit = false) (hic : i.icBit = false)
      (range : op.toNat ≤ 4 ∨ 0x20 ≤ op.toNat ∧ op.toNat ≤ 0x21 ∨ 0x30 ≤ op.toNat ∧ op.toNat ≤ 0x34) :
      OpcodeRow op alt ic (formPlain i alt ic)
  | openA (f : Bool → Instr) (hop : ∀ b, (f b).op = op) (halt : ∀ b, (f b).altBit = b)
      (hic : ∀ b, (f b).icBit = false) (range : 0x10 ≤ op.toNat ∧ op.toNat ≤ 0x12) :
      OpcodeRow op alt ic (formAlt f alt ic)
  | openI (f : Bool → Instr) (hop : ∀ b, (f b).op = op) (halt : ∀ b, (f b).altBit = false)
      (hic : ∀ b, (f b).icBit = b) (range : 0x13 ≤ op.toNat ∧ op.toNat ≤ 0x16) :
      OpcodeRow op alt ic (formIc f alt ic)
  | undefined (range : 5 ≤ op.toNat ∧ op.toNat ≤ 0x0F ∨ 0x17 ≤ op.toNat ∧ op.toNat ≤ 0x1F ∨
      0x22 ≤ op.toNat ∧ op.toNat ≤ 0x2F ∨ 0x35 ≤ op.toNat) : OpcodeRow op alt ic (.error .opcode)

theorem decodeOP_row (op : Byte) (alt ic : Bool) : OpcodeRow op alt ic (decodeOP op alt ic) := by
  unfold decodeOP
  split
  case h_6 h | h_7 h | h_8 h =>
    exact .openA _ (fun _ => BitVec.eq_of_toNat_eq h.symm) (fun _ => rfl) (fun _ => rfl) (by omega)
  case h_9 h | h_10 h | h_11 h | h_12 h =>
    exact .openI _ (fun _ => BitVec.eq_of_toNat_eq h.symm) (fun _ => rfl) (fun _ => rfl) (by omega)
  case h_20 => exact .undefined (by simp only [imp_false] at *; omega)
  all_goals
    next h => exact .plain _ (BitVec.eq_of_toNat_eq h.symm) rfl rfl (by omega)

theorem decodeOP_of_fields (i : Instr) : decodeOP i.op i.altBit i.icBit = .ok i := by
  cases i <;> rfl

/-- What the opcode map answers is the command with these fields (30_encoding R98). -/
theorem decodeOP_eq_ok_iff (op : Byte) (alt ic : Bool) (i : Instr) :
    decodeOP op alt ic = .ok i ↔ i.op = op ∧ i.altBit = alt ∧ i.icBit = ic := by
  constructor
  · intro h
    have row := decodeOP_row op alt ic
    generalize decodeOP op alt ic = r at row h
    cases row with
    | plain j hop halt hic => cases alt <;> cases ic <;> cases h; exact ⟨hop, halt, hic⟩
    | openA f hop halt hic => cases ic <;> cases h; exact ⟨hop _, halt _, hic _⟩
    | openI f hop halt hic => cases alt <;> cases h; exact ⟨hop _, halt _, hic _⟩
    | undefined => cases h
  · rintro ⟨rfl, rfl, rfl⟩
    exact decodeOP_of_fields i

theorem decode_eq_ok_iff (w : Word) (i : Instr) :
    decode w = .ok i ↔ fieldRES w = 0#22 ∧ i.op = fieldOP w ∧ i.altBit = fieldA w ∧ i.icBit = fieldI w := by
  by_cases hres : fieldRES w = 0#22
  · simp only [decode_of_fields hres, decodeOP_eq_ok_iff, hres, true_and]
  · simp [decode_of_reserved hres, hres]

/-- Settles O2: both sides say that RES is 0 and that OP, A and I are the command's. -/
theorem decodeInvertsEncodeExactly : Obligations.DecodeInvertsEncodeExactly :=
  fun w i => (decode_eq_ok_iff w i).trans (commandWord_eq_iff i.op i.altBit i.icBit w).symm

theorem decode_encode (i : Instr) : decode (encode i) = .ok i := (decodeInvertsEncodeExactly _ i).mpr rfl

/-- Settles O1: eight of the words are encodings, and each of the others fails one check. -/
theorem sampleCommandWordsDecode : Obligations.SampleCommandWordsDecode :=
  ⟨decode_encode .nop, decode_encode .x25519, decode_encode (.hsalsa20 false), decode_encode (.hsalsa20 true),
    decode_encode (.salsa20Xor false), decode_encode (.salsa20Xor true), decode_encode .poly1305Verify,
    decode_encode .boxDecryptSym, rfl, rfl, rfl⟩

/-- Settles O3: the checks of R102 on a word with RES = 0 are those of its opcode's row, whose range says which of the
opcode sets it is in. -/
theorem decoderIsTheSpecsDecode : Obligations.DecoderIsTheSpecsDecode := by
  intro w
  by_cases hres : fieldRES w = 0#22
  · have hnat := (fieldRES_eq_zero_iff w).mp hres
    have row := decodeOP_row (fieldOP w) (fieldA w) (fieldI w)
    simp only [decode_of_fields hres, hnat, fieldOP, fieldA, fieldI, ne_eq, not_true_eq_false, if_false, List.mem_cons,
      List.not_mem_nil, or_false] at row ⊢
    generalize w.extractLsb' 0 8 = op, w.getLsbD 8 = alt, w.getLsbD 9 = ic at row ⊢
    generalize decodeOP op alt ic = r at row ⊢
    cases row with
    | plain i hop halt hic range =>
      cases alt <;> cases ic <;> simp (disch := omega) [formPlain, hop, halt, hic, if_pos, if_neg]
    | openA f hop halt hic range =>
      cases alt <;> cases ic <;> simp (disch := omega) [formAlt, hop, halt, hic, if_pos, if_neg]
    | openI f hop halt hic range =>
      cases alt <;> cases ic <;> simp (disch := omega) [formIc, hop, halt, hic, if_pos, if_neg]
    | undefined range => rw [if_pos (by omega)]
  · have hnat := mt (fieldRES_eq_zero_iff w).mpr hres
    simp only [decode_of_reserved hres, hnat, ne_eq, not_false_eq_true, if_true]

/-! ## Words that select no form -/

/-- The explicit-counter forms end in ERR_UNSUPPORTED before any check (42_salsa20 R187). -/
theorem exec_of_icBit {i : Instr} (hic : i.icBit = true) (s : State) : exec i s = .next (complete .unsupported s) := by
  cases i with
  | salsa20Xor ic | xsalsa20Xor ic | salsa20Stream ic | xsalsa20Stream ic => exact if_pos hic
  | _ => cases hic

/-- With no turn listed, a busy engine moves (45_control R251). -/
theorem step_of_busy {s : State} (hbusy : s.busy = true) (hturns : s.turns = []) : step s = engineStep s := by
  obtain ⟨-, -, -, hstep, -⟩ := stepFollowsTheTurns s []
  exact hstep hturns hbusy

theorem engineStep_of_decode_error {s : State} {e : ErrCode} (h : decode s.latch.cmd = .error e) :
    engineStep s = .next (complete e s) := by
  rw [engineStep, h]; rfl

theorem engineStep_of_decode_ok {s : State} {i : Instr} (h : decode s.latch.cmd = .ok i) :
    engineStep s = exec i s := by
  rw [engineStep, h]

/-- Settles O4: each range of opcodes is one kind of row of the opcode map. -/
theorem undefinedWordsEndInTheirError : Obligations.UndefinedWordsEndInTheirError := by
  intro s hbusy hturns
  simp only [step_of_busy hbusy hturns]
  refine ⟨fun hres => ?_, fun hres => ?_⟩
  · exact engineStep_of_decode_error (decode_of_reserved (mt (fieldRES_eq_zero_iff _).mp hres))
  have row := decodeOP_row (fieldOP s.latch.cmd) (fieldA s.latch.cmd) (fieldI s.latch.cmd)
  rw [← decode_of_fields ((fieldRES_eq_zero_iff _).mpr hres)] at row
  rw [← fieldOP_toNat, ← fieldA, ← fieldI]
  generalize fieldOP s.latch.cmd = op, fieldA s.latch.cmd = alt, fieldI s.latch.cmd = ic at row ⊢
  generalize hr : decode s.latch.cmd = r at row
  cases row with
  | plain i hop halt hic range =>
    refine ⟨fun _ => by omega, fun _ => ⟨fun hflag => ?_, fun ⟨_, _, _, _⟩ => by omega⟩⟩
    exact engineStep_of_decode_error (hr.trans (if_pos (by simpa using hflag.imp And.left And.left)))
  | openA f hop halt hic range =>
    refine ⟨fun _ => by omega, fun _ => ⟨?_, fun ⟨_, _, _, _⟩ => by omega⟩⟩
    rintro (⟨-, hout⟩ | ⟨hI, -⟩)
    · exact absurd range hout
    · exact engineStep_of_decode_error (hr.trans (if_pos hI))
  | openI f hop halt hic range =>
    refine ⟨fun _ => by omega, fun _ => ⟨?_, ?_⟩⟩
    · rintro (⟨hA, -⟩ | ⟨-, hout⟩)
      · exact engineStep_of_decode_error (hr.trans (if_pos hA))
      · exact absurd range hout
    · rintro ⟨rfl, rfl, -⟩
      exact (engineStep_of_decode_ok hr).trans (exec_of_icBit (hic true) s)
  | undefined range => exact ⟨fun _ => engineStep_of_decode_error hr, fun _ => by omega⟩

/-! ## Host programs, run -/

/-- The host is about to perform these operations, up to the end of its program. -/
def State.hostNext (s : State) (ops : List HostOp) : Prop := s.host.prog.drop s.host.pc = ops

theorem State.hostNext.lookup {s : State} {op : HostOp} {ops : List HostOp} (h : s.hostNext (op :: ops)) :
    s.host.prog[s.host.pc]? = some op := by
  rw [← Nat.add_zero s.host.pc, ← List.getElem?_drop, h]; rfl

theorem State.hostNext.tail {s : State} {op : HostOp} {ops : List HostOp} (h : s.hostNext (op :: ops)) :
    (hostGoto (s.host.pc + 1) s).hostNext ops := by
  rw [hostNext, hostGoto_host, ← List.drop_drop, h]; rfl

theorem hostStep_of_prog {s : State} {op : HostOp} (h : s.host.prog[s.host.pc]? = some op) :
    hostStep s = hostOp op s := by
  rw [hostStep, h]

/-- Settles O23: bit 0 and bits 15:8 of STATUS as the two operations look at them. -/
theorem waitAndBranchFollowStatus : Obligations.WaitAndBranchFollowStatus := by
  intro s l
  refine ⟨fun h => ?_, fun h => ?_⟩
  · obtain ⟨-, hbit, -, -, -⟩ := statusWord_fields s
    simp only [hostStep_of_prog h, hostOp, hbit]
    by_cases hbusy : s.busy = true
    · rw [if_pos hbusy, if_pos hbusy]; rfl
    · rw [if_neg hbusy, if_neg hbusy]; rfl
  · have hcode : s.host.lastStatus.extractLsb' 8 8 = 0#8 ↔ s.host.lastStatus.toNat / 256 % 256 = 0 := by
      rw [← BitVec.toNat_inj, BitVec.extractLsb'_toNat, Nat.shiftRight_eq_div_pow]; rfl
    simp only [hostStep_of_prog h, hostOp, hcode]
    split <;> rfl

/-- An IDLE block's next step is the host's access. -/
theorem step_of_access {s : State} {a : HostAccess} {ops : List HostOp} (hidle : s.busy = false) (hturns : s.turns = [])
    (hnext : s.hostNext (.access a :: ops)) : step s = hostAccess a (hostGoto (s.host.pc + 1) s) := by
  obtain ⟨-, -, -, -, hstep⟩ := stepFollowsTheTurns s []
  rw [hstep hturns hidle, hostStep_of_prog hnext.lookup]; rfl

/-- Running what `wrbuf` expands to writes the string (30_encoding R105). -/
theorem run_expandWrbuf {off : Nat} {B : Bytes} {s : State} (hidle : s.busy = false) (hturns : s.turns = [])
    (hnext : s.hostNext (expandWrbuf off B)) (hin : off + B.length ≤ s.bufSize) :
    Host.Core.run core B.length s = .next (memWrite off B (hostGoto (s.host.pc + B.length) s)) := by
  induction B generalizing off s with
  | nil => rfl
  | cons b B ih =>
    rw [List.length_cons] at hin ⊢
    have hstep : step s = .next (memWrite off [b] (hostGoto (s.host.pc + 1) s)) :=
      (step_of_access hidle hturns hnext).trans <|
        (hostAccess_wr8_buf (s := hostGoto (s.host.pc + 1) s) (by simp; omega) b).trans
          (writeBuf_idle (s := hostGoto (s.host.pc + 1) s) hidle _ _)
    rw [core_run_next hstep, ih (s := memWrite off [b] (hostGoto (s.host.pc + 1) s)) hidle hturns hnext.tail
      (by simp; omega), Nat.add_comm B.length 1, ← Nat.add_assoc s.host.pc]
    rfl

/-- The operands of a command pseudo-instruction written to their ARGs, in the order written (30_encoding R104). -/
def writeOperands : List (OperandName × Word) → State → State
  | [], s => s
  | (o, v) :: os, s => writeOperands os (setArg (operandArg o) v s)

/-- Running what a command pseudo-instruction expands to writes its operands and issues its word (30_encoding R104). -/
theorem run_expandCommand {op : Byte} {alt ic : Bool} {os : List (OperandName × Word)} {s : State}
    (hidle : s.busy = false) (hturns : s.turns = []) (hnext : s.hostNext (expandCommand op alt ic os)) :
    Host.Core.run core (os.length + 1) s =
      .next (issue (commandWord op alt ic) (writeOperands os (hostGoto (s.host.pc + (os.length + 1)) s))) := by
  induction os generalizing s with
  | nil =>
    have hstep : step s = .next (issue (commandWord op alt ic) (hostGoto (s.host.pc + 1) s)) :=
      (step_of_access hidle hturns hnext).trans ((hostAccess_wr32_cmd _ _).trans (by rw [hostGoto_busy, hidle]; rfl))
    exact core_run_next hstep
  | cons o os ih =>
    obtain ⟨o, v⟩ := o
    have hstep : step s = .next (setArg (operandArg o) v (hostGoto (s.host.pc + 1) s)) :=
      (step_of_access hidle hturns hnext).trans
        ((hostAccess_wr32_arg (operandArg o) v _).trans (by rw [hostGoto_busy, hidle]; rfl))
    rw [List.length_cons, core_run_next hstep,
      ih (s := setArg (operandArg o) v (hostGoto (s.host.pc + 1) s)) hidle hturns hnext.tail,
      Nat.add_comm (os.length + 1) 1, ← Nat.add_assoc s.host.pc]
    rfl

/-- Settles O24: the two expansions, run from the first operation. -/
theorem hostNotationRunsAsItExpands : Obligations.HostNotationRunsAsItExpands := by
  intro s hidle hturns hpc
  have fromStart {ops : List HostOp} (hprog : s.host.prog = ops) : s.hostNext ops := by
    rw [State.hostNext, hpc, hprog, List.drop_zero]
  refine ⟨fun off B hprog hin => ?_, fun op alt ic d x y hprog => ?_⟩
  · rw [run_expandWrbuf hidle hturns (fromStart hprog) hin, hpc, Nat.zero_add]; rfl
  · exact ⟨_, run_expandCommand hidle hturns (fromStart hprog), rfl, commandWord_toNat op alt ic, rfl, rfl, rfl⟩

end Sys2Proof.Machine

/-! SUPPORT. Proofs of the statements of 40_field.md: what `finv` computes, that it inverts, and that `fencode` is the
canonical encoding. -/

namespace Sys2Proof.Machine

/-! ## The inverse -/

/-- Square and multiply keeps its accumulator reduced. -/
theorem powMod_lt {m acc : Nat} (h : acc < m) (fuel b e : Nat) : powMod m fuel b e acc < m := by
  induction fuel generalizing b e acc with
  | zero => exact h
  | succ n ih =>
    rw [powMod]
    refine ih ?_ _ _
    split
    · exact Nat.mod_lt _ (Nat.zero_lt_of_lt h)
    · exact h

theorem finv_eq_pow (a : Nat) : finv a = a ^ (fieldP - 2) % fieldP := by
  have hlt : finv a < fieldP := powMod_lt fieldP_prime.one_lt _ _ _
  calc finv a = finv a % fieldP := (Nat.mod_eq_of_lt hlt).symm
    _ = 1 * (a % fieldP) ^ (fieldP - 2) % fieldP := powMod_mod _ _ _ _ _ (by decide)
    _ = a ^ (fieldP - 2) % fieldP := by rw [one_mul, ← Nat.pow_mod]

theorem finv_eq_zero {a : Nat} (h : a % fieldP = 0) : finv a = 0 := by
  have hexp : 0 < fieldP - 2 := by decide
  rw [finv_eq_pow, Nat.pow_mod, h, Nat.zero_pow hexp, Nat.zero_mod]

/-- Settles O46: square and multiply keeps its result reduced, so the result is the power's residue. -/
theorem fieldInverseIsThePower : Obligations.FieldInverseIsThePower :=
  fun a => ⟨finv_eq_pow a, finv_eq_zero⟩

/-- Fermat's little theorem for the field prime (40_field R138). -/
theorem pow_fieldP_sub_one_mod {a : Nat} (h : a % fieldP ≠ 0) : a ^ (fieldP - 1) % fieldP = 1 := by
  have hcoprime : a.Coprime fieldP :=
    ((fieldP_prime.coprime_iff_not_dvd).mpr (mt Nat.mod_eq_zero_of_dvd h)).symm
  have hfermat : a ^ (fieldP - 1) ≡ 1 [MOD fieldP] := Nat.totient_prime fieldP_prime ▸ Nat.ModEq.pow_totient hcoprime
  rw [hfermat, Nat.mod_eq_of_lt fieldP_prime.one_lt]

/-- Settles O47: a times a^(p-2) is a^(p-1), which is 1 by Fermat's little theorem. -/
theorem fieldInverseInverts : Obligations.FieldInverseInverts := by
  intro a h
  have hexp : fieldP - 2 + 1 = fieldP - 1 := by decide
  calc fmul a (finv a) = a * a ^ (fieldP - 2) % fieldP := by rw [fmul, finv_eq_pow, Nat.mul_mod_mod]
    _ = a ^ (fieldP - 1) % fieldP := by rw [← pow_succ', hexp]
    _ = 1 := pow_fieldP_sub_one_mod h

/-! ## The encoding -/

theorem mod_fieldP_lt_two_pow (v : Nat) : v % fieldP < 2 ^ 255 :=
  (Nat.mod_lt v fieldP_pos).trans (by decide)

/-- A residue fits in the 32 bytes of its encoding (40_field R132). -/
theorem le_fencode (v : Nat) : le (fencode v) = v % fieldP := by
  rw [fencode, le_leN, Nat.mod_eq_of_lt ((mod_fieldP_lt_two_pow v).trans (by decide))]

theorem fdecode_fencode (v : Nat) : fdecode (fencode v) = v % fieldP := by
  rw [fdecode, le_fencode, Nat.mod_eq_of_lt (mod_fieldP_lt_two_pow v), Nat.mod_mod]

/-- Settles O48: the encoding's value is the residue, which is below 2^255. -/
theorem fieldEncodingIsCanonical : Obligations.FieldEncodingIsCanonical := by
  intro v
  have hbit : (le (fencode v)).testBit 255 = false := by
    rw [le_fencode]; exact Nat.testBit_lt_two_pow (mod_fieldP_lt_two_pow v)
  exact ⟨fencode_length v, le_fencode v, hbit, fdecode_fencode v⟩

end Sys2Proof.Machine

/-! SUPPORT. Proofs of the statements of 41_x25519.md: the bits of a masked byte string, what CLAMP and the three scalar
multiplications write, which bits the ladder reads, and its degenerate cases. -/

namespace Sys2Proof.Machine

/-! ## The bits of a byte string -/

/-- Bit i of a string's value is bit i mod 8 of byte i / 8 (00_scope R10). -/
theorem testBit_le (B : Bytes) (i : Nat) : (le B).testBit i = (B.getD (i / 8) 0#8).getLsbD (i % 8) := by
  induction B generalizing i with
  | nil => simp [le]
  | cons b bs ih =>
    rw [le, add_comm, Nat.testBit_two_pow_mul_add _ b.isLt]
    split
    · next hi => rw [Nat.div_eq_of_lt hi, Nat.mod_eq_of_lt hi, BitVec.testBit_toNat, List.getD_cons_zero]
    · next hi =>
      obtain ⟨j, rfl⟩ := Nat.exists_eq_add_of_le' (Nat.le_of_not_lt hi)
      rw [Nat.add_sub_cancel, ih, Nat.add_div_right j (by decide), Nat.add_mod_right, List.getD_cons_succ]

theorem testBit_le_of_length {B : Bytes} {i : Nat} (h : 8 * B.length ≤ i) : (le B).testBit i = false := by
  rw [testBit_le, List.getD_eq_default _ _ (by omega), BitVec.getLsbD_zero]

theorem testBit_le_modify_and (B : Bytes) (j : Nat) (mask : Byte) (i : Nat) :
    (le (B.modify j (· &&& mask))).testBit i = ((le B).testBit i && (decide (i / 8 ≠ j) || mask.getLsbD (i % 8))) := by
  simp only [testBit_le, List.getD_eq_getElem?_getD, List.getElem?_modify]
  cases B[i / 8]? with
  | none => simp
  | some b => by_cases h : i / 8 = j <;> simp [h, eq_comm (a := j)]

theorem testBit_le_modify_or {B : Bytes} {j : Nat} (hj : j < B.length) (mask : Byte) (i : Nat) :
    (le (B.modify j (· ||| mask))).testBit i = ((le B).testBit i || (decide (i / 8 = j) && mask.getLsbD (i % 8))) := by
  simp only [testBit_le, List.getD_eq_getElem?_getD, List.getElem?_modify]
  by_cases h : i / 8 = j
  · subst h; simp [hj]
  · simp [h, eq_comm (a := j)]

/-! ## The clamped scalar and the masked u (41_x25519 R150, R157) -/

/-- The mask of byte 0 takes away bits 2 to 0. -/
theorem clampLowMask (i : Nat) : (decide (i / 8 ≠ 0) || (0xF8#8).getLsbD (i % 8)) = decide (3 ≤ i) := by
  have hbyte : ∀ n < 8, (0xF8#8).getLsbD n = decide (3 ≤ n) := by decide
  rw [hbyte _ (Nat.mod_lt i (by decide)), ← Bool.decide_or]
  exact decide_eq_decide.mpr (by omega)

/-- The mask of byte 31 takes away bit 255. -/
theorem clampHighMask {i : Nat} (hi : i < 256) :
    (decide (i / 8 ≠ 31) || (0x7F#8).getLsbD (i % 8)) = decide (i < 255) := by
  have hbyte : ∀ n < 8, (0x7F#8).getLsbD n = decide (n < 7) := by decide
  rw [hbyte _ (Nat.mod_lt i (by decide)), ← Bool.decide_or]
  exact decide_eq_decide.mpr (by omega)

/-- What is set in byte 31 is bit 254. -/
theorem clampSetMask (i : Nat) : (decide (i / 8 = 31) && (0x40#8).getLsbD (i % 8)) = decide (i = 254) := by
  have hbyte : ∀ n < 8, (0x40#8).getLsbD n = decide (n = 6) := by decide
  rw [hbyte _ (Nat.mod_lt i (by decide)), ← Bool.decide_and]
  exact decide_eq_decide.mpr (by omega)

theorem le_maskU {u : Bytes} (hu : u.length = 32) : le (maskU u) = le u % 2 ^ 255 := by
  refine Nat.eq_of_testBit_eq fun i => ?_
  rw [maskU, testBit_le_modify_and, Nat.testBit_mod_two_pow]
  by_cases hi : i < 256
  · rw [clampHighMask hi, Bool.and_comm]
  · rw [testBit_le_of_length (by omega), Bool.false_and, Bool.and_false]

theorem clampScalar_eq_masks (k : Bytes) :
    clampScalar k = (maskU (k.modify 0 (· &&& 0xF8#8))).modify 31 (· ||| 0x40#8) := by
  rw [maskU, List.modify_modify_eq]; rfl

/-- A clamped scalar keeps bits 3 to 254, and bit 254 is set. -/
theorem testBit_le_clampScalar {k : Bytes} (hk : k.length = 32) (i : Nat) : (le (clampScalar k)).testBit i =
    (decide (i < 255) && ((le k).testBit i && decide (3 ≤ i)) || decide (i = 254)) := by
  rw [clampScalar_eq_masks, testBit_le_modify_or (by simp [maskU, hk]), le_maskU (by simpa using hk),
    Nat.testBit_mod_two_pow, testBit_le_modify_and, clampLowMask, clampSetMask]

theorem le_clampScalar {k : Bytes} (hk : k.length = 32) :
    le (clampScalar k) = (le k &&& (2 ^ 255 - 8)) ||| 2 ^ 254 := by
  refine Nat.eq_of_testBit_eq fun i => ?_
  have hmask : (2 ^ 255 - 8).testBit i = (decide (i < 255) && !(2 ^ 3 - 1).testBit i) :=
    Nat.testBit_two_pow_sub_succ (x := 7) (by decide) i
  rw [testBit_le_clampScalar hk, Nat.testBit_or, Nat.testBit_and, hmask, Nat.testBit_two_pow_sub_one,
    Nat.testBit_two_pow, ← decide_not, Bool.and_left_comm, decide_eq_decide.mpr (Nat.not_lt (a := i) (b := 3)),
    decide_eq_decide.mpr (eq_comm (a := 254) (b := i))]

/-- Masking bit 255 of u is what `fdecode` does anyway (40_field R131). -/
theorem fdecode_maskU {u : Bytes} (hu : u.length = 32) : fdecode (maskU u) = fdecode u := by
  rw [fdecode, le_maskU hu, Nat.mod_mod, fdecode]

/-! ## The commands -/

/-- With one output range, the check passes if every range is in BUF and the output shares no byte with an input
(20_memory R70, R71). -/
theorem checkArgs_plainOperands {size : Nat} {r : Range} {ins : List Range} (hr : r.off + r.len ≤ size)
    (hins : ∀ q ∈ ins, q.off + q.len ≤ size) (hapart : ∀ q ∈ ins, r.off + r.len ≤ q.off ∨ q.off + q.len ≤ r.off) :
    checkArgs size (plainOperands [r] ins) = .ok := by
  refine (checkArgs_eq_ok_one _ _ r rfl).mpr ⟨le_rfl, ?_, fun q hq => (hapart q hq).imp_right .inl, nofun⟩
  simpa [plainOperands] using ⟨hr, hins⟩

section
variable {s : State} {u k : Bytes} {o a b : Word}

/-- A command with the scalar alone as input (41_x25519 R155, R158). -/
theorem scalarCommand_completes (f : Bytes → Bytes) (ho : o.toNat + 32 ≤ s.bufSize) (hb : b.toNat + 32 ≤ s.bufSize)
    (hob : o.toNat + 32 ≤ b.toNat ∨ b.toNat + 32 ≤ o.toNat) (hk : Memory.readBytes s.mem b.toNat 32 = some k) :
    (checked (plainOperands [⟨o.toNat, 32⟩] [⟨b.toNat, 32⟩]) s <|
      memRead s b 32 fun k => succeed (memWrite o.toNat (f k) s)) =
    .next { s with
      busy := false, done := true, errcode := .ok, mem := Memory.writeBytes s.mem o.toNat (f k) } := by
  rw [checked_of_ok (checkArgs_plainOperands ho (by simpa using hb) (by simpa using hob)), memRead_of_some _ hk,
    succeed_memWrite]

/-- A command with u and the scalar as inputs (41_x25519 R156, R157). -/
theorem pointCommand_completes (f : Bytes → Bytes → Bytes) (ho : o.toNat + 32 ≤ s.bufSize)
    (ha : a.toNat + 32 ≤ s.bufSize) (hb : b.toNat + 32 ≤ s.bufSize)
    (hoa : o.toNat + 32 ≤ a.toNat ∨ a.toNat + 32 ≤ o.toNat) (hob : o.toNat + 32 ≤ b.toNat ∨ b.toNat + 32 ≤ o.toNat)
    (hu : Memory.readBytes s.mem a.toNat 32 = some u) (hk : Memory.readBytes s.mem b.toNat 32 = some k) :
    (checked (plainOperands [⟨o.toNat, 32⟩] [⟨a.toNat, 32⟩, ⟨b.toNat, 32⟩]) s <|
      memRead s a 32 fun u => memRead s b 32 fun k => succeed (memWrite o.toNat (f u k) s)) =
    .next { s with
      busy := false, done := true, errcode := .ok, mem := Memory.writeBytes s.mem o.toNat (f u k) } := by
  rw [checked_of_ok (checkArgs_plainOperands ho (by simpa using ⟨ha, hb⟩) (by simpa using ⟨hoa, hob⟩)),
    memRead_of_some _ hu, memRead_of_some _ hk, succeed_memWrite]

end

/-- Settles O31: the bytes CLAMP writes are the encoding of their own value, the clamped scalar's. -/
theorem clampWritesTheClampedScalar : Obligations.ClampWritesTheClampedScalar := by
  intro s k x h0 h2 h02 hk
  have hlen : k.length = 32 := Memory.readBytes_length hk
  have hbytes : leN 32 ((le k &&& (2 ^ 255 - 8)) ||| 2 ^ 254) = clampScalar k := by
    rw [← le_clampScalar hlen, ← hlen, ← clampScalar_length k, leN_le]
  rw [hbytes]
  exact scalarCommand_completes clampScalar h0 h2 h02 hk

/-- Settles O32: the output is the encoding of the ladder on the operands as they stand. -/
theorem x25519RawWritesTheLadder : Obligations.X25519RawWritesTheLadder :=
  fun _ _ _ h0 h1 h2 h01 h02 hu hk => pointCommand_completes x25519RawBytes h0 h1 h2 h01 h02 hu hk

/-- X25519 in terms of the integers its operands encode (41_x25519 R157). -/
theorem x25519Bytes_eq {u k : Bytes} (hu : u.length = 32) (hk : k.length = 32) :
    x25519Bytes u k = fencode (ladder ((le k &&& (2 ^ 255 - 8)) ||| 2 ^ 254) (fdecode u)) := by
  rw [x25519Bytes, le_clampScalar hk, fdecode_maskU hu]

/-- Settles O33: the output is X25519's encoding, in terms of the integers of its operands. -/
theorem x25519WritesTheClampedLadder : Obligations.X25519WritesTheClampedLadder := by
  intro s u k x h0 h1 h2 h01 h02 hu hk
  refine (pointCommand_completes x25519Bytes h0 h1 h2 h01 h02 hu hk).trans ?_
  rw [x25519Bytes_eq (Memory.readBytes_length hu) (Memory.readBytes_length hk)]
  rfl

theorem x25519BaseBytes_eq (k : Bytes) : x25519BaseBytes k = x25519Bytes (0x09#8 :: zeros 31) k := by
  have hnine : fdecode (maskU (0x09#8 :: zeros 31)) = basePointU := by decide
  rw [x25519BaseBytes, x25519Bytes, hnine]

/-- Settles O34: 9 is the value of the byte 9 and 31 zero bytes. -/
theorem x25519BaseIsX25519AtNine : Obligations.X25519BaseIsX25519AtNine := by
  intro s k x h0 h2 h02 hk
  rw [← x25519BaseBytes_eq]
  exact scalarCommand_completes x25519BaseBytes h0 h2 h02 hk

/-- Settles O51: the clamped scalars agree bit by bit, and the decoded u are equal. -/
theorem x25519DependsOnReducedOperands : Obligations.X25519DependsOnReducedOperands := by
  intro u u' k k' hu hu' hk hk' hval hbits
  have hscalar : le (clampScalar k) = le (clampScalar k') := by
    refine Nat.eq_of_testBit_eq fun i => ?_
    rw [testBit_le_clampScalar hk, testBit_le_clampScalar hk']
    obtain hlow | hmid | htop | hhigh : i < 3 ∨ (3 ≤ i ∧ i ≤ 253) ∨ i = 254 ∨ 255 ≤ i := by omega
    · simp [hlow.not_ge]
    · rw [hbits i hmid.1 hmid.2]
    · simp [htop]
    · simp [hhigh.not_gt]
  have hpoint : fdecode u = fdecode u' := hval
  rw [x25519Bytes, x25519Bytes, hscalar, fdecode_maskU hu, fdecode_maskU hu', hpoint]

/-! ## The ladder (41_x25519 R151 to R154) -/

/-- The ladder's working state before its first pass. -/
def ladderStart (x1 : Nat) : LadderState := { x2 := 1, z2 := 0, x3 := x1, z3 := 1, swap := false }

/-- The final swap and the quotient X2 / Z2. -/
def ladderResult (l : LadderState) : Nat := fmul (ladderSwap l.swap l).x2 (finv (ladderSwap l.swap l).z2)

theorem ladder_eq (n x1 : Nat) : ladder n x1 = ladderResult (ladderLoop n x1 255 (ladderStart x1)) := rfl

/-- The passes for bits t - 1 down to 0 read those bits only. -/
theorem ladderLoop_congr {n m t : Nat} (h : ∀ i < t, n.testBit i = m.testBit i) (x1 : Nat) (l : LadderState) :
    ladderLoop n x1 t l = ladderLoop m x1 t l := by
  induction t generalizing l with
  | zero => rfl
  | succ t ih => rw [ladderLoop, ladderLoop, h t t.lt_succ_self, ih fun i hi => h i (hi.trans t.lt_succ_self)]

/-- Settles O49: the ladder's loop has the passes for bits 254 to 0. -/
theorem ladderReadsBits254Down : Obligations.LadderReadsBits254Down := by
  intro n m x h
  rw [ladder_eq, ladder_eq, ladderLoop_congr fun i hi => h i (Nat.le_of_lt_succ hi)]

/-- What every pass keeps, the loop keeps. -/
theorem ladderLoop_keeps {P : LadderState → Prop} {n x1 : Nat}
    (hpass : ∀ l t, P l → P (ladderPass x1 (n.testBit t) l)) (t : Nat) {l : LadderState} (hl : P l) :
    P (ladderLoop n x1 t l) := by
  induction t generalizing l with
  | zero => exact hl
  | succ t ih => exact ih (hpass l t hl)

/-! ## The degenerate cases -/

theorem natCast_fadd (a b : Nat) : (fadd a b : ZMod fieldP) = a + b := by
  rw [fadd, ZMod.natCast_mod, Nat.cast_add]

theorem natCast_fsub (a b : Nat) : (fsub a b : ZMod fieldP) = a - b := by
  rw [fsub, ZMod.natCast_mod, Nat.cast_add, Nat.cast_sub (Nat.mod_lt b fieldP_pos).le, ZMod.natCast_self,
    ZMod.natCast_mod, zero_sub, sub_eq_add_neg]

theorem natCast_fsq (a : Nat) : (fsq a : ZMod fieldP) = a ^ 2 := by
  rw [fsq, ZMod.natCast_mod, Nat.cast_mul, pow_two]

theorem zero_fmul (b : Nat) : fmul 0 b = 0 := by rw [fmul, zero_mul, Nat.zero_mod]

theorem fmul_finv_zero (a : Nat) : fmul a (finv 0) = 0 := by
  rw [finv_eq_zero (Nat.zero_mod _), fmul, mul_zero, Nat.zero_mod]

theorem fmul_eq_zero_of_natCast {a : Nat} (h : (a : ZMod fieldP) = 0) (b : Nat) : fmul a b = 0 :=
  Nat.mod_eq_zero_of_dvd (((ZMod.natCast_eq_zero_iff a fieldP).mp h).mul_right b)

/-- The doubling of a point with X = 0 or Z = 0 is the point at infinity: its E is (X + Z)^2 - (X - Z)^2 = 4XZ. -/
theorem ladderStep_z2_eq_zero (x1 : Nat) {l : LadderState} (h : l.x2 * l.z2 = 0) : (ladderStep x1 l).z2 = 0 := by
  refine fmul_eq_zero_of_natCast ?_ _
  have hxz : (l.x2 : ZMod fieldP) * l.z2 = 0 := by rw [← Nat.cast_mul, h, Nat.cast_zero]
  rw [natCast_fsub, natCast_fsq, natCast_fsq, natCast_fadd, natCast_fsub]
  linear_combination 4 * hxz

theorem ladderStep_zero_z3 (l : LadderState) : (ladderStep 0 l).z3 = 0 := zero_fmul _

/-- Each of the two points is (0 : Z) or the point at infinity. -/
structure LadderState.Degenerate (l : LadderState) : Prop where
  first : l.x2 * l.z2 = 0
  second : l.x3 * l.z3 = 0

theorem LadderState.Degenerate.swap {l : LadderState} (h : l.Degenerate) (b : Bool) : (ladderSwap b l).Degenerate := by
  cases b with
  | false => exact h
  | true => exact ⟨h.second, h.first⟩

/-- For u = 0 a pass gives two points with Z = 0. -/
theorem LadderState.Degenerate.pass {l : LadderState} (h : l.Degenerate) (kt : Bool) :
    (ladderPass 0 kt l).Degenerate where
  first := mul_eq_zero_of_right _ (ladderStep_z2_eq_zero 0 (h.swap (xor l.swap kt)).first)
  second := mul_eq_zero_of_right _ (ladderStep_zero_z3 _)

theorem ladderResult_of_degenerate {l : LadderState} (h : l.Degenerate) : ladderResult l = 0 := by
  rw [ladderResult]
  rcases Nat.mul_eq_zero.mp (h.swap l.swap).first with hx | hz
  · rw [hx, zero_fmul]
  · rw [hz, fmul_finv_zero]

/-- The first point is the point at infinity, and nothing waits to be swapped. -/
structure LadderState.AtInfinity (l : LadderState) : Prop where
  infinity : l.z2 = 0
  unswapped : l.swap = false

theorem LadderState.AtInfinity.pass {l : LadderState} (h : l.AtInfinity) (x1 : Nat) :
    (ladderPass x1 false l).AtInfinity where
  infinity := by
    rw [ladderPass, h.unswapped]
    exact ladderStep_z2_eq_zero x1 (mul_eq_zero_of_right _ h.infinity)
  unswapped := rfl

theorem ladderResult_of_atInfinity {l : LadderState} (h : l.AtInfinity) : ladderResult l = 0 := by
  have hz : (ladderSwap l.swap l).z2 = 0 := by rw [h.unswapped]; exact h.infinity
  rw [ladderResult, hz, fmul_finv_zero]

/-- Settles O50: every pass keeps the first point at infinity for scalar 0, and both points degenerate for u = 0. -/
theorem ladderOfZeroIsZero : Obligations.LadderOfZeroIsZero := by
  refine ⟨fun x => ?_, fun n => ?_⟩
  · refine ladderResult_of_atInfinity (ladderLoop_keeps (fun l t hl => ?_) 255 ⟨rfl, rfl⟩)
    rw [Nat.zero_testBit]
    exact hl.pass x
  · exact ladderResult_of_degenerate (ladderLoop_keeps (fun l t hl => hl.pass (n.testBit t)) 255 ⟨rfl, rfl⟩)

end Sys2Proof.Machine

/-! SUPPORT. Proofs of the statements of 42_salsa20.md: what the core, stream and XOR commands write, which counter each
block of a stream has, and that XOR with the keystream undoes itself. -/

namespace Sys2Proof.Machine

/-- Settles O28: I = 1 is looked at before the checks and before any read. -/
theorem explicitCounterIsUnsupported : Obligations.ExplicitCounterIsUnsupported := by
  rintro s i (rfl | rfl | rfl | rfl) <;> exact ⟨rfl, rfl⟩

/-! ## The core commands -/

theorem forall_mem_coreInputs {alt : Bool} {a : ArgFile} {P : Range → Prop} (hkey : P ⟨a.x3.toNat, 32⟩)
    (hinp : P ⟨a.x4.toNat, 16⟩) (hconst : alt = true → P ⟨a.x7.toNat, 16⟩) : ∀ q ∈ coreInputs alt a, P q := by
  cases alt with
  | false => simpa [coreInputs] using ⟨hkey, hinp⟩
  | true => simpa [coreInputs] using ⟨hkey, hinp, hconst rfl⟩

/-- The constant is SIGMA, or with A = 1 the bytes at x[7] (42_salsa20 R179). -/
theorem readConstant_eq {alt : Bool} {s : State} {c : Bytes} (k : Bytes → Result)
    (hc : alt = true → Memory.readBytes s.mem s.latch.arg.x7.toNat 16 = some c) :
    readConstant alt s k = k (if alt then c else sigma) := by
  cases alt with
  | false => rfl
  | true => exact memRead_of_some k (hc rfl)

/-- What the three core commands share: they differ in the function and in the length of its output (42_salsa20 R180 to
R182). -/
theorem coreCommand_completes {s : State} {alt : Bool} {len : Nat} {key inp c : Bytes} (f : Bytes → Bytes → Bytes → Bytes)
    (h0 : s.latch.arg.x0.toNat + len ≤ s.bufSize) (h3 : s.latch.arg.x3.toNat + 32 ≤ s.bufSize)
    (h4 : s.latch.arg.x4.toNat + 16 ≤ s.bufSize)
    (h03 : s.latch.arg.x0.toNat + len ≤ s.latch.arg.x3.toNat ∨ s.latch.arg.x3.toNat + 32 ≤ s.latch.arg.x0.toNat)
    (h04 : s.latch.arg.x0.toNat + len ≤ s.latch.arg.x4.toNat ∨ s.latch.arg.x4.toNat + 16 ≤ s.latch.arg.x0.toNat)
    (hkey : Memory.readBytes s.mem s.latch.arg.x3.toNat 32 = some key)
    (hinp : Memory.readBytes s.mem s.latch.arg.x4.toNat 16 = some inp)
    (hconst : alt = true → s.latch.arg.x7.toNat + 16 ≤ s.bufSize ∧
      (s.latch.arg.x0.toNat + len ≤ s.latch.arg.x7.toNat ∨ s.latch.arg.x7.toNat + 16 ≤ s.latch.arg.x0.toNat) ∧
      Memory.readBytes s.mem s.latch.arg.x7.toNat 16 = some c) :
    (checked (plainOperands [⟨s.latch.arg.x0.toNat, len⟩] (coreInputs alt s.latch.arg)) s <|
      memRead s s.latch.arg.x3 32 fun key => memRead s s.latch.arg.x4 16 fun inp =>
      readConstant alt s fun c => succeed (memWrite s.latch.arg.x0.toNat (f c key inp) s)) =
    .next { s with
      busy := false, done := true, errcode := .ok
      mem := Memory.writeBytes s.mem s.latch.arg.x0.toNat (f (if alt then c else sigma) key inp) } := by
  rw [imp_and, imp_and] at hconst
  obtain ⟨h7, h07, hc⟩ := hconst
  have hcheck := checkArgs_plainOperands (r := ⟨s.latch.arg.x0.toNat, len⟩) h0 (forall_mem_coreInputs h3 h4 h7)
    (forall_mem_coreInputs h03 h04 h07)
  rw [checked_of_ok hcheck, memRead_of_some _ hkey, memRead_of_some _ hinp, readConstant_eq _ hc, succeed_memWrite]

/-- The words of the permuted state, each little-endian (42_salsa20 R180). -/
theorem roundsBytes_eq (c k inp : Bytes) :
    roundsBytes c k inp = (salsaRounds (salsaLoad c k inp)).toList.flatMap fun y => leN 4 y.toNat := by
  rw [roundsBytes, stateBytes]; rfl

/-- Settles O35: both are core commands with an output of 64 bytes. -/
theorem coreCommandsWriteTheirBlock : Obligations.CoreCommandsWriteTheirBlock := by
  intro s alt key inp c x apart constant h0 h3 h4 h03 h04 hkey hinp hconst
  refine ⟨?_, coreCommand_completes salsaBlock h0 h3 h4 h03 h04 hkey hinp hconst⟩
  rw [← roundsBytes_eq]
  exact coreCommand_completes roundsBytes h0 h3 h4 h03 h04 hkey hinp hconst

theorem slice_flatMap_wordBytes (l : List Word) {j : Nat} (hj : j < l.length) :
    slice (l.flatMap wordBytes) (4 * j) (4 * j + 4) = wordBytes l[j] := by
  induction l generalizing j with
  | nil => cases hj
  | cons y l ih =>
    rw [slice, Nat.add_sub_cancel_left, List.flatMap_cons]
    cases j with
    | zero => exact List.take_left' (wordBytes_length y)
    | succ j =>
      rw [show 4 * (j + 1) = (wordBytes y).length + 4 * j by rw [wordBytes_length]; omega,
        List.drop_length_add_append, List.getElem_cons_succ, ← ih, slice, Nat.add_sub_cancel_left]

/-- Word j of a serialised state (42_salsa20 R180). -/
theorem slice_stateBytes (y : SalsaState) (j : Nat) (hj : j < 16) :
    slice (stateBytes y) (4 * j) (4 * j + 4) = wordBytes y[j] :=
  slice_flatMap_wordBytes y.toList (by simpa using hj)

/-- HSalsa20 selects eight words of what SALSA20_ROUNDS gives (42_salsa20 R176, R182). -/
theorem hsalsa20_eq_words (c k inp : Bytes) :
    hsalsa20 c k inp = [0, 5, 10, 15, 6, 7, 8, 9].flatMap fun j => slice (roundsBytes c k inp) (4 * j) (4 * j + 4) := by
  unfold hsalsa20 roundsBytes
  generalize salsaRounds (salsaLoad c k inp) = y
  simp only [List.flatMap_cons, List.flatMap_nil]
  congr <;> exact (slice_stateBytes _ _ (by decide)).symm

/-- Settles O36: HSALSA20 is a core command with an output of 32 bytes, the selected words. -/
theorem hsalsa20WritesTheSubkey : Obligations.Hsalsa20WritesTheSubkey := by
  intro s alt key inp c x apart y word h0 h3 h4 h03 h04 hkey hinp hconst
  have hwords : word 0 ++ word 5 ++ word 10 ++ word 15 ++ word 6 ++ word 7 ++ word 8 ++ word 9 =
      hsalsa20 (if alt then c else sigma) key inp := by
    simp only [hsalsa20_eq_words, List.flatMap_cons, List.flatMap_nil, List.append_nil, List.append_assoc]
    rfl
  rw [hwords]
  exact coreCommand_completes hsalsa20 h0 h3 h4 h03 h04 hkey hinp hconst

/-! ## The stream and XOR commands -/

/-- The row of a stream or XOR command: a nonce of `n` bytes and, for XOR, the message as in-place data (30_encoding
R97). -/
def streamOperands (n : Nat) (data : List Range) (a : ArgFile) : Operands :=
  { outs := [⟨a.x0.toNat, a.x2.toNat⟩]
    ins := [⟨a.x3.toNat, 32⟩, ⟨a.x4.toNat, n⟩]
    inPlace := data
    len := a.x2.toNat
    minLen := 0 }

theorem streamOperands_rows (a : ArgFile) :
    streamOperands 8 [⟨a.x1.toNat, a.x2.toNat⟩] a = salsa20XorOperands a ∧
    streamOperands 24 [⟨a.x1.toNat, a.x2.toNat⟩] a = xsalsa20XorOperands a ∧
    streamOperands 8 [] a = salsa20StreamOperands a ∧ streamOperands 24 [] a = xsalsa20StreamOperands a :=
  ⟨rfl, rfl, rfl, rfl⟩

/-- The check of a stream or XOR row, as the spec words it (20_memory R70, R71). -/
theorem checkArgs_streamOperands {size n : Nat} {data : List Range} {a : ArgFile} :
    checkArgs size (streamOperands n data a) = .ok ↔
      (a.x0.toNat + a.x2.toNat ≤ size ∧ a.x3.toNat + 32 ≤ size ∧ a.x4.toNat + n ≤ size ∧
        ∀ q ∈ data, q.off + q.len ≤ size) ∧
      (Range.disjoint ⟨a.x0.toNat, a.x2.toNat⟩ ⟨a.x3.toNat, 32⟩ ∧
        Range.disjoint ⟨a.x0.toNat, a.x2.toNat⟩ ⟨a.x4.toNat, n⟩) ∧
      ∀ q ∈ data, (⟨a.x0.toNat, a.x2.toNat⟩ : Range) = q ∨ Range.disjoint ⟨a.x0.toNat, a.x2.toNat⟩ q := by
  rw [checkArgs_eq_ok_one _ _ _ rfl]
  simp [streamOperands]

theorem Range.disjoint_of_apart {o l a n : Nat} (h : l = 0 ∨ o + l ≤ a ∨ a + n ≤ o) : Range.disjoint ⟨o, l⟩ ⟨a, n⟩ := by
  rw [or_comm, or_assoc] at h
  exact h.imp_right (.imp_right .inl)

section
variable {s : State} {n : Nat} {msg key nonce : Bytes}

/-- What the two stream commands share (42_salsa20 R183, R185). -/
theorem streamCommand_completes (f : Bytes → Bytes → Nat → Bytes)
    (hcheck : checkArgs s.bufSize (streamOperands n [] s.latch.arg) = .ok)
    (hkey : Memory.readBytes s.mem s.latch.arg.x3.toNat 32 = some key)
    (hnonce : Memory.readBytes s.mem s.latch.arg.x4.toNat n = some nonce) :
    (checked (streamOperands n [] s.latch.arg) s <|
      memRead s s.latch.arg.x3 32 fun key => memRead s s.latch.arg.x4 n fun nonce =>
      succeed (memWrite s.latch.arg.x0.toNat (f key nonce s.latch.arg.x2.toNat) s)) =
    .next { s with
      busy := false, done := true, errcode := .ok
      mem := Memory.writeBytes s.mem s.latch.arg.x0.toNat (f key nonce s.latch.arg.x2.toNat) } := by
  rw [checked_of_ok hcheck, memRead_of_some _ hkey, memRead_of_some _ hnonce, succeed_memWrite]

/-- What the two XOR commands share (42_salsa20 R184, R186). -/
theorem xorCommand_completes (f : Bytes → Bytes → Nat → Bytes)
    (hcheck : checkArgs s.bufSize
      (streamOperands n [⟨s.latch.arg.x1.toNat, s.latch.arg.x2.toNat⟩] s.latch.arg) = .ok)
    (hmsg : Memory.readBytes s.mem s.latch.arg.x1.toNat s.latch.arg.x2.toNat = some msg)
    (hkey : Memory.readBytes s.mem s.latch.arg.x3.toNat 32 = some key)
    (hnonce : Memory.readBytes s.mem s.latch.arg.x4.toNat n = some nonce) :
    (checked (streamOperands n [⟨s.latch.arg.x1.toNat, s.latch.arg.x2.toNat⟩] s.latch.arg) s <|
      memRead s s.latch.arg.x1 s.latch.arg.x2.toNat fun msg =>
      memRead s s.latch.arg.x3 32 fun key => memRead s s.latch.arg.x4 n fun nonce =>
      succeed (memWrite s.latch.arg.x0.toNat (xorBytes msg (f key nonce s.latch.arg.x2.toNat)) s)) =
    .next { s with
      busy := false, done := true, errcode := .ok
      mem := Memory.writeBytes s.mem s.latch.arg.x0.toNat (xorBytes msg (f key nonce s.latch.arg.x2.toNat)) } := by
  rw [checked_of_ok hcheck, memRead_of_some _ hmsg, memRead_of_some _ hkey, memRead_of_some _ hnonce, succeed_memWrite]

end

/-- Settles O37: the two commands differ in the nonce's length and the keystream. -/
theorem xorCommandsXorTheKeystream : Obligations.XorCommandsXorTheKeystream := by
  intro s msg key x L apart h0 h1 h3 h01 h03 hmsg hkey
  have hdata : (⟨x.x0.toNat, L⟩ : Range) = ⟨x.x1.toNat, L⟩ ∨ Range.disjoint ⟨x.x0.toNat, L⟩ ⟨x.x1.toNat, L⟩ :=
    h01.imp (fun h => by rw [h]) Range.disjoint_of_apart
  have hcheck (n : Nat) (h4 : x.x4.toNat + n ≤ s.bufSize) (h04 : apart x.x4.toNat n) :
      checkArgs s.bufSize (streamOperands n [⟨x.x1.toNat, L⟩] x) = .ok :=
    checkArgs_streamOperands.mpr ⟨⟨h0, h3, h4, by simpa using h1⟩,
      ⟨Range.disjoint_of_apart h03, Range.disjoint_of_apart h04⟩, by simpa only [List.forall_mem_singleton] using hdata⟩
  exact ⟨fun n8 h4 h04 hn => xorCommand_completes salsa20Stream (hcheck 8 h4 h04) hmsg hkey hn,
    fun n24 h4 h04 hn => xorCommand_completes xsalsa20Stream (hcheck 24 h4 h04) hmsg hkey hn⟩

/-- The 24 bytes of a nonce are split after the 16th (42_salsa20 R178). -/
theorem xsalsa20Stream_eq (key : Bytes) {n24 : Bytes} (h : n24.length = 24) (L : Nat) :
    xsalsa20Stream key n24 L = salsa20Stream (hsalsa20 sigma key (n24.take 16)) (n24.drop 16) L := by
  have htail : slice n24 16 24 = n24.drop 16 := List.take_of_length_le (by simp [h])
  rw [xsalsa20Stream, htail]; rfl

/-- Settles O38: the two commands differ in the nonce's length and the keystream. -/
theorem streamCommandsWriteTheKeystream : Obligations.StreamCommandsWriteTheKeystream := by
  intro s key x L apart h0 h3 h03 hkey
  have hcheck (n : Nat) (h4 : x.x4.toNat + n ≤ s.bufSize) (h04 : apart x.x4.toNat n) :
      checkArgs s.bufSize (streamOperands n [] x) = .ok :=
    checkArgs_streamOperands.mpr ⟨⟨h0, h3, h4, nofun⟩,
      ⟨Range.disjoint_of_apart h03, Range.disjoint_of_apart h04⟩, nofun⟩
  refine ⟨fun n8 h4 h04 hn => streamCommand_completes salsa20Stream (hcheck 8 h4 h04) hkey hn,
    fun n24 h4 h04 hn => ?_⟩
  rw [← xsalsa20Stream_eq key (Memory.readBytes_length hn)]
  exact streamCommand_completes xsalsa20Stream (hcheck 24 h4 h04) hkey hn

/-! ## The counter of a block -/

/-- `inc8` is the successor, on as many bytes as the counter has (42_salsa20 R177). -/
theorem inc8_leN (n v : Nat) : inc8 (leN n v) = leN n (v + 1) := by
  induction n generalizing v with
  | zero => rfl
  | succ n ih =>
    have hbyte : BitVec.ofNat 8 v + 1#8 = BitVec.ofNat 8 (v + 1) := BitVec.ofNat_add .. |>.symm
    have hcarry : BitVec.ofNat 8 (v + 1) = 0#8 ↔ (v + 1) % 256 = 0 := by simp [← BitVec.toNat_inj]
    rw [leN, leN, inc8, hbyte, ih]
    split
    · next h =>
      rw [h, show (v + 1) / 256 = v / 256 + 1 by rw [hcarry] at h; omega]
    · next h => rw [show (v + 1) / 256 = v / 256 by rw [hcarry] at h; omega]

/-- Past `b` blocks the keystream goes on with the counter `b` higher. -/
theorem drop_streamBlocks (k n8 : Bytes) (n v b : Nat) :
    (streamBlocks k n8 (b + n) (leN 8 v)).drop (64 * b) = streamBlocks k n8 n (leN 8 (v + b)) := by
  induction b generalizing v with
  | zero => simp
  | succ b ih =>
    have hlen := salsaBlock_length sigma k (n8 ++ leN 8 v)
    rw [Nat.add_right_comm, streamBlocks, inc8_leN, show 64 * (b + 1) = 64 + 64 * b by omega, ← hlen,
      List.drop_length_add_append, hlen, ih, Nat.add_assoc, Nat.add_comm 1 b]

/-- Settles O52: dropping b blocks of the keystream leaves one that starts with the counter b. -/
theorem streamBlockHasItsCounter : Obligations.StreamBlockHasItsCounter := by
  intro k n8 L b _ hL
  obtain ⟨r, hr⟩ : ∃ r, ceilDiv L 64 = b + (r + 1) := Nat.exists_eq_add_of_lt (by unfold ceilDiv; omega)
  have hblocks := drop_streamBlocks k n8 (r + 1) 0 b
  rw [slice, salsa20Stream, hr, List.drop_take, List.take_take, min_eq_left (by omega),
    show zeros 8 = leN 8 0 from rfl, hblocks, Nat.zero_add, Nat.add_sub_cancel_left]
  exact List.take_left' (salsaBlock_length ..)

/-! ## XOR twice -/

/-- A MemRead that goes on found every byte written (20_memory R64). -/
theorem memRead_eq_next {s t : State} {a : Word} {n : Nat} {k : Bytes → Result} (h : memRead s a n k = .next t) :
    ∃ B, Memory.readBytes s.mem a.toNat n = some B ∧ k B = .next t := by
  rcases memRead_cases s a n k with ⟨B, hB, -, hk⟩ | ⟨-, hfault⟩
  · exact ⟨B, hB, hk.symm.trans h⟩
  · rw [hfault] at h; cases h

/-- A SALSA20_XOR that passes its check and goes on has read its operands (42_salsa20 R184). -/
theorem salsa20Xor_reads {s t : State} (hcheck : checkArgs s.bufSize (salsa20XorOperands s.latch.arg) = .ok)
    (h : exec (.salsa20Xor false) s = .next t) :
    ∃ msg key n8, Memory.readBytes s.mem s.latch.arg.x1.toNat s.latch.arg.x2.toNat = some msg ∧
      Memory.readBytes s.mem s.latch.arg.x3.toNat 32 = some key ∧
      Memory.readBytes s.mem s.latch.arg.x4.toNat 8 = some n8 := by
  obtain ⟨msg, hmsg, h⟩ := memRead_eq_next ((checked_of_ok hcheck).symm.trans h)
  obtain ⟨key, hkey, h⟩ := memRead_eq_next h
  obtain ⟨n8, hn, -⟩ := memRead_eq_next h
  exact ⟨msg, key, n8, hmsg, hkey, hn⟩

/-- Writing back what a range held undoes any write to the range. -/
theorem Memory.read_writeBytes_restore {m : Memory} {a : Nat} {B C : Bytes} (hlen : C.length = B.length)
    (hB : Memory.readBytes m a B.length = some B) (x : Nat) :
    Memory.read (Memory.writeBytes (Memory.writeBytes m a C) a B) x = Memory.read m x := by
  by_cases hx : a ≤ x ∧ x < a + B.length
  · obtain ⟨i, rfl⟩ := Nat.exists_eq_add_of_le hx.1
    have hi : i < B.length := by omega
    rw [Memory.read_writeBytes_inside B _ hi, ((Memory.readBytes_eq_some ..).mp hB).2 i hi]
  · rw [Memory.read_writeBytes_outside B _ (by omega), Memory.read_writeBytes_outside C _ (by omega)]

/-- Settles O54: the first run leaves key and nonce, which its output does not overlap, so the second XORs the same
keystream onto the first one's output; and a run that its check ends is ended there both times. -/
theorem xorTwiceRestoresTheData : Obligations.XorTwiceRestoresTheData := by
  intro s t t' hinPlace h h' a
  by_cases hcheck : checkArgs s.bufSize (salsa20XorOperands s.latch.arg) = .ok
  · obtain ⟨msg, key, n8, hmsg, hkey, hn⟩ := salsa20Xor_reads hcheck h
    obtain ⟨-, ⟨hkeyApart, hnApart⟩, -⟩ := checkArgs_streamOperands.mp hcheck
    obtain rfl := Host.Outcome.next.inj ((xorCommand_completes salsa20Stream hcheck hmsg hkey hn).symm.trans h)
    generalize hS : salsa20Stream key n8 s.latch.arg.x2.toNat = S at h'
    have hmsgLen : msg.length = s.latch.arg.x2.toNat := Memory.readBytes_length hmsg
    have hSLen : msg.length = S.length := by rw [← hS, salsa20Stream_length, hmsgLen]
    have hlen : (xorBytes msg S).length = s.latch.arg.x2.toNat := by
      rw [xorBytes_length, ← hSLen, min_self, hmsgLen]
    rw [← hlen] at hkeyApart hnApart
    have hkey' := (Memory.readBytes_writeBytes_outside s.mem _ (Range.disjoint_comm hkeyApart)).trans hkey
    have hn' := (Memory.readBytes_writeBytes_outside s.mem _ (Range.disjoint_comm hnApart)).trans hn
    have hmsg' : Memory.readBytes (Memory.writeBytes s.mem s.latch.arg.x0.toNat (xorBytes msg S))
        s.latch.arg.x1.toNat s.latch.arg.x2.toNat = some (xorBytes msg S) := by
      rw [← hinPlace, ← hlen]; exact Memory.readBytes_writeBytes ..
    have hsecond := xorCommand_completes (s := complete .ok (memWrite s.latch.arg.x0.toNat (xorBytes msg S) s))
      salsa20Stream hcheck hmsg' hkey' hn'
    obtain rfl := Host.Outcome.next.inj (hsecond.symm.trans h')
    show Memory.read (Memory.writeBytes (Memory.writeBytes s.mem _ (xorBytes msg S)) _
      (xorBytes (xorBytes msg S) (salsa20Stream key n8 s.latch.arg.x2.toNat))) a = _
    rw [← hinPlace, ← hmsgLen] at hmsg
    rw [hS, xorBytes_xorBytes msg S hSLen.le]
    exact Memory.read_writeBytes_restore (hlen.trans hmsgLen.symm) hmsg a
  · have hfail := exec_of_check_error (.salsa20Xor false)
    obtain rfl := Host.Outcome.next.inj ((hfail s rfl hcheck).symm.trans h)
    obtain rfl := Host.Outcome.next.inj ((hfail _ rfl hcheck).symm.trans h')
    rfl

end Sys2Proof.Machine

/-! SUPPORT. Proofs of the statements of 43_poly1305.md: what the two commands leave behind, and the tags of the empty
message and of the zero key. -/

namespace Sys2Proof.Machine

/-! ## The commands -/

/-- The check of POLY1305's row passes if its ranges are in BUF and the tag shares no byte with the message or the key;
an empty message shares none wherever it lies (20_memory R70, R71). -/
theorem checkArgs_poly1305Operands {size : Nat} {a : ArgFile} (htag : a.x0.toNat + 16 ≤ size)
    (hmsg : a.x1.toNat + a.x2.toNat ≤ size) (hkey : a.x3.toNat + 32 ≤ size)
    (hmsgApart : a.x2.toNat = 0 ∨ a.x0.toNat + 16 ≤ a.x1.toNat ∨ a.x1.toNat + a.x2.toNat ≤ a.x0.toNat)
    (hkeyApart : a.x0.toNat + 16 ≤ a.x3.toNat ∨ a.x3.toNat + 32 ≤ a.x0.toNat) :
    checkArgs size (poly1305Operands a) = .ok := by
  refine (checkArgs_eq_ok_one _ _ _ rfl).mpr ⟨Nat.zero_le _, ?_, ?_, nofun⟩
  · simpa [poly1305Operands] using ⟨htag, hmsg, hkey⟩
  · have hm : Range.disjoint ⟨a.x0.toNat, 16⟩ ⟨a.x1.toNat, a.x2.toNat⟩ :=
      Range.disjoint_comm (Range.disjoint_of_apart (hmsgApart.imp_right Or.symm))
    have hk : Range.disjoint ⟨a.x0.toNat, 16⟩ ⟨a.x3.toNat, 32⟩ := hkeyApart.imp_right .inl
    simpa [poly1305Operands] using ⟨hm, hk⟩

/-- The check of POLY1305_VERIFY's row, which has no output, asks for RANGE alone (43_poly1305 R206). -/
theorem checkArgs_poly1305VerifyOperands {size : Nat} {a : ArgFile} (htag : a.x0.toNat + 16 ≤ size)
    (hmsg : a.x1.toNat + a.x2.toNat ≤ size) (hkey : a.x3.toNat + 32 ≤ size) :
    checkArgs size (poly1305VerifyOperands a) = .ok :=
  (checkArgs_eq_ok_none _ _ rfl).mpr ⟨Nat.zero_le _, by simpa [poly1305VerifyOperands] using ⟨htag, hmsg, hkey⟩⟩

/-- Settles O39: the check passes and both reads find their bytes, so the tag is written. -/
theorem poly1305WritesTheTag : Obligations.Poly1305WritesTheTag := by
  intro s msg key x L htag hmsg hkey hmsgApart hkeyApart hmsgRead hkeyRead
  rw [exec, execPoly1305, checked_of_ok (checkArgs_poly1305Operands htag hmsg hkey hmsgApart hkeyApart),
    memRead_of_some _ hmsgRead, memRead_of_some _ hkeyRead, succeed_memWrite]

/-- Settles O40: the check has no overlap to look for, and the compare of two 16-byte strings is equality. -/
theorem poly1305VerifyComparesTheTag : Obligations.Poly1305VerifyComparesTheTag := by
  intro s tag msg key x L htag hmsg hkey htagRead hmsgRead hkeyRead
  have hcompare : tagsEqual tag (poly1305Tag key msg) = true ↔ tag = poly1305Tag key msg :=
    tagsEqual_iff _ _ ((Memory.readBytes_length htagRead).trans (poly1305Tag_length key msg).symm)
  rw [exec, execPoly1305Verify, checked_of_ok (checkArgs_poly1305VerifyOperands htag hmsg hkey),
    memRead_of_some _ htagRead, memRead_of_some _ hmsgRead, memRead_of_some _ hkeyRead]
  by_cases heq : tag = poly1305Tag key msg
  · rw [if_pos (hcompare.mpr heq), if_pos heq]; rfl
  · rw [if_neg (mt hcompare.mp heq), if_neg heq]; rfl

/-! ## The empty message and the zero key -/

/-- With r = 0 every block's product is 0 (43_poly1305 R202). -/
theorem polyAccumulate_zero_zero (q : Nat) (M : Bytes) : polyAccumulate 0 q M 0 = 0 := by
  induction q generalizing M with
  | zero => rfl
  | succ q ih => rw [polyAccumulate, Nat.mul_zero, Nat.zero_mod, ih]

theorem slice_zeros (n i j : Nat) : slice (zeros n) i j = zeros (min (j - i) (n - i)) := by
  simp [slice, zeros]

theorem leN_zero (n : Nat) : leN n 0 = zeros n := by
  simpa using leN_le (zeros n)

/-- The empty message has no block, so its tag is the encoding of s (43_poly1305 R203, R204). -/
theorem poly1305Tag_nil {K : Bytes} (hK : K.length = 32) : poly1305Tag K [] = slice K 16 32 := by
  have hlen : (slice K 16 32).length = 16 := by simp [hK]
  have hs : polyS K < 2 ^ 128 := by simpa [polyS, hlen] using le_lt (slice K 16 32)
  calc poly1305Tag K []
    _ = leN 16 ((0 + polyS K) % 2 ^ 128) := rfl
    _ = leN 16 (le (slice K 16 32)) := by rw [Nat.zero_add, Nat.mod_eq_of_lt hs, polyS]
    _ = slice K 16 32 := by simpa only [hlen] using leN_le (slice K 16 32)

/-- The zero key has r = 0 and s = 0 (43_poly1305 R200). -/
theorem poly1305Tag_zeros (M : Bytes) : poly1305Tag (zeros 32) M = zeros 16 := by
  have hr : polyR (zeros 32) = 0 := by rw [polyR, slice_zeros, le_zeros, Nat.zero_and]
  have hs : polyS (zeros 32) = 0 := by rw [polyS, slice_zeros, le_zeros]
  rw [poly1305Tag, hr, hs, polyAccumulate_zero_zero, Nat.zero_add, Nat.zero_mod, leN_zero]

/-- Settles O55: the accumulator is 0 in both cases, with no block or with r = 0. -/
theorem poly1305OfEmptyAndOfZeroKey : Obligations.Poly1305OfEmptyAndOfZeroKey :=
  ⟨fun _ hK => poly1305Tag_nil hK, poly1305Tag_zeros⟩

end Sys2Proof.Machine

/-! SUPPORT. Proofs of the statements of 44_box.md: the one-time key as the head of the keystream, each box function in
terms of the tag over a payload, the two round trips, and what the five commands leave behind. -/

namespace Sys2Proof.Machine

/-! ## The one-time key and the payload (44_box R221, R222, R230) -/

/-- The keystream starts with the block of counter 0 (42_salsa20 R177). -/
theorem take_salsa20Stream (k n8 : Bytes) {m L : Nat} (hblock : m ≤ 64) (hL : m ≤ L) :
    (salsa20Stream k n8 L).take m = (salsaBlock sigma k (n8 ++ zeros 8)).take m := by
  obtain rfl | hm := Nat.eq_zero_or_pos m
  · rfl
  obtain ⟨q, hq⟩ : ∃ q, ceilDiv L 64 = q + 1 := Nat.exists_eq_add_one.mpr (by unfold ceilDiv; omega)
  rw [salsa20Stream, hq, streamBlocks, List.take_take, min_eq_left hL, List.take_append_of_le_length (by simpa)]

@[simp] theorem boxOpenKey_length (key n : Bytes) : (boxOpenKey key n).length = 32 := by simp [boxOpenKey]

/-- The head of the XSalsa20 stream is the one-time key of box_open_afternm. -/
theorem take_xsalsa20Stream (key n : Bytes) {L : Nat} (hL : 32 ≤ L) :
    (xsalsa20Stream key n L).take 32 = boxOpenKey key n :=
  take_salsa20Stream _ _ (by decide) hL

/-- XOR with the keystream past the one-time key: plaintext to ciphertext, and back. -/
def boxPayload (key n M : Bytes) : Bytes := xorBytes M ((xsalsa20Stream key n (M.length + 32)).drop 32)

@[simp] theorem boxPayload_length (key n M : Bytes) : (boxPayload key n M).length = M.length := by
  simp [boxPayload]

theorem boxPayload_of_length (key n : Bytes) {M : Bytes} {L : Nat} (h : M.length + 32 = L) :
    boxPayload key n M = xorBytes M ((xsalsa20Stream key n L).drop 32) := by
  rw [boxPayload, h]

theorem boxPayload_boxPayload (key n M : Bytes) : boxPayload key n (boxPayload key n M) = M := by
  rw [boxPayload_of_length key n (L := M.length + 32) (by simp), boxPayload, xorBytes_xorBytes _ _ (by simp)]

/-! ## The box functions -/

/-- A lead of 32 zero bytes turns into the one-time key. -/
theorem boxCipher_zeros_append (key n M : Bytes) :
    boxCipher key n (zeros 32 ++ M) = boxOpenKey key n ++ boxPayload key n M := by
  have hlen : (zeros 32 ++ M).length = M.length + 32 := by simp [Nat.add_comm]
  rw [boxCipher, hlen, xorBytes_append, zeros_length, take_xsalsa20Stream key n (Nat.le_add_left ..),
    xorBytes_zeros _ _ (boxOpenKey_length ..), boxPayload]

theorem boxAfternm_zeros_append (any16 key n M : Bytes) :
    boxAfternm any16 key n (zeros 32 ++ M) =
      any16 ++ poly1305Tag (boxOpenKey key n) (boxPayload key n M) ++ boxPayload key n M := by
  have hkey := boxOpenKey_length key n
  have hhead : slice (boxOpenKey key n ++ boxPayload key n M) 0 32 = boxOpenKey key n := List.take_left' hkey
  rw [boxAfternm, boxCipher_zeros_append, hhead, List.drop_left' hkey]

/-- The compare of tags, said as an equality (44_box R222). -/
theorem boxOpenAfternm_eq (key n : Bytes) {C : Bytes} (hC : 32 ≤ C.length) :
    boxOpenAfternm key n C =
      if poly1305Tag (boxOpenKey key n) (C.drop 32) = slice C 16 32 then
        some (zeros 32 ++ boxPayload key n (C.drop 32))
      else none := by
  have hcompare := tagsEqual_iff (poly1305Tag (boxOpenKey key n) (C.drop 32)) (slice C 16 32) (by simp; omega)
  have hlen : (C.drop 32).length + 32 = C.length := by simp; omega
  rw [boxPayload_of_length key n hlen]
  exact if_congr hcompare rfl rfl

theorem boxEncryptSym_eq (key n M : Bytes) :
    boxEncryptSym key n M = poly1305Tag (boxOpenKey key n) (boxPayload key n M) ++ boxPayload key n M := by
  rw [boxEncryptSym, boxAfternm_zeros_append, List.append_assoc]
  exact List.drop_left' (zeros_length 16)

theorem boxDecryptSym_eq (key n : Bytes) {C : Bytes} (hC : 16 ≤ C.length) :
    boxDecryptSym key n C =
      if poly1305Tag (boxOpenKey key n) (C.drop 16) = C.take 16 then some (boxPayload key n (C.drop 16)) else none := by
  have hdrop (i : Nat) : (zeros 16 ++ C).drop (16 + i) = C.drop i := by
    simpa using List.drop_length_add_append (l₁ := zeros 16) (l₂ := C) (i := i)
  have htag : slice (zeros 16 ++ C) 16 32 = C.take 16 := congrArg (List.take 16) (hdrop 0)
  rw [boxDecryptSym, boxOpenAfternm_eq key n (by simp; omega), hdrop 16, htag, apply_ite (Option.map _), Option.map_some,
    Option.map_none, List.drop_left' (zeros_length 32)]

/-- Settles O53: all three are the head of the same keystream, which a zero lead leaves as it is. -/
theorem boxOneTimeKeyIsTheStreamHead : Obligations.BoxOneTimeKeyIsTheStreamHead := by
  intro key n M _
  refine ⟨?_, (take_xsalsa20Stream key n (by decide)).symm, ?_⟩
  · rw [← take_xsalsa20Stream key n le_rfl, List.take_of_length_le (by simp)]
  · rw [boxCipher_zeros_append]
    exact (List.take_left' (boxOpenKey_length key n)).symm

/-- Settles O56: the tag in the box is the one its opener computes, and the keystream cancels. -/
theorem openInvertsAfternm : Obligations.OpenInvertsAfternm := by
  intro any16 key n M hany _
  generalize hP : boxPayload key n M = P
  have hM : boxPayload key n P = M := by rw [← hP, boxPayload_boxPayload]
  generalize hT : poly1305Tag (boxOpenKey key n) P = T
  have htag : T.length = 16 := by rw [← hT, poly1305Tag_length]
  have hlead : (any16 ++ T).length = 32 := by simp [hany, htag]
  have hslice : slice (any16 ++ T ++ P) 16 32 = T := by
    rw [slice, List.append_assoc, List.drop_left' hany, List.take_left' htag]
  rw [boxAfternm_zeros_append, hP, hT, boxOpenAfternm_eq key n (by simp [hany, htag]; omega), hslice,
    List.drop_left' hlead, hT, if_pos rfl, hM]

/-- Settles O57: the tag in the box is the one its opener computes, and the keystream cancels. -/
theorem decryptInvertsEncrypt : Obligations.DecryptInvertsEncrypt := by
  intro key n M _
  have htag := poly1305Tag_length (boxOpenKey key n) (boxPayload key n M)
  rw [boxDecryptSym_eq key n (by simp [boxEncryptSym_length]), boxEncryptSym_eq, List.drop_left' htag,
    List.take_left' htag, if_pos rfl, boxPayload_boxPayload]

/-! ## The commands -/

/-- What the four commands on data, key and nonce share, past their checks. -/
theorem boxCommand_reads {s : State} {o : Operands} {data key n : Bytes} (k : Bytes → Bytes → Bytes → Result)
    (hcheck : checkArgs s.bufSize o = .ok)
    (hdata : Memory.readBytes s.mem s.latch.arg.x1.toNat s.latch.arg.x2.toNat = some data)
    (hkey : Memory.readBytes s.mem s.latch.arg.x3.toNat 32 = some key)
    (hn : Memory.readBytes s.mem s.latch.arg.x4.toNat 24 = some n) :
    (checked o s <| memRead s s.latch.arg.x1 s.latch.arg.x2.toNat fun data =>
      memRead s s.latch.arg.x3 32 fun key => memRead s s.latch.arg.x4 24 fun n => k data key n) = k data key n := by
  rw [checked_of_ok hcheck, memRead_of_some _ hdata, memRead_of_some _ hkey, memRead_of_some _ hn]

/-- The check of BOX_AFTERNM's row, and of BOX_OPEN_AFTERNM's equal one, passes if its ranges are in BUF and the output
shares no byte with an input, or is the data input (20_memory R70, R71). -/
theorem checkArgs_boxAfternmOperands {size : Nat} {a : ArgFile} (hL : 32 ≤ a.x2.toNat)
    (h0 : a.x0.toNat + a.x2.toNat ≤ size) (h1 : a.x1.toNat + a.x2.toNat ≤ size) (h3 : a.x3.toNat + 32 ≤ size)
    (h4 : a.x4.toNat + 24 ≤ size)
    (h01 : a.x0 = a.x1 ∨ a.x0.toNat + a.x2.toNat ≤ a.x1.toNat ∨ a.x1.toNat + a.x2.toNat ≤ a.x0.toNat)
    (h03 : a.x0.toNat + a.x2.toNat ≤ a.x3.toNat ∨ a.x3.toNat + 32 ≤ a.x0.toNat)
    (h04 : a.x0.toNat + a.x2.toNat ≤ a.x4.toNat ∨ a.x4.toNat + 24 ≤ a.x0.toNat) :
    checkArgs size (boxAfternmOperands a) = .ok := by
  have hdata : (⟨a.x0.toNat, a.x2.toNat⟩ : Range) = ⟨a.x1.toNat, a.x2.toNat⟩ ∨
      Range.disjoint ⟨a.x0.toNat, a.x2.toNat⟩ ⟨a.x1.toNat, a.x2.toNat⟩ :=
    h01.imp (fun h => by rw [h]) fun h => Range.disjoint_of_apart (.inr h)
  refine (checkArgs_eq_ok_one _ _ _ rfl).mpr ⟨hL, ?_, ?_, ?_⟩
  · simpa [boxAfternmOperands] using ⟨h0, h3, h4, h1⟩
  · simpa [boxAfternmOperands] using ⟨Range.disjoint_of_apart (.inr h03), Range.disjoint_of_apart (.inr h04)⟩
  · simpa only [boxAfternmOperands, List.forall_mem_singleton] using hdata

/-- The row of the two commands of the symmetric box: `m` bytes of output, apart from every input (44_box R226, R227). -/
def symOperands (m minLen : Nat) (a : ArgFile) : Operands :=
  { outs := [⟨a.x0.toNat, m⟩]
    ins := [⟨a.x1.toNat, a.x2.toNat⟩, ⟨a.x3.toNat, 32⟩, ⟨a.x4.toNat, 24⟩]
    inPlace := []
    len := a.x2.toNat
    minLen := minLen }

theorem symOperands_rows (a : ArgFile) :
    symOperands (a.x2.toNat + 16) 0 a = boxEncryptSymOperands a ∧
    symOperands (a.x2.toNat - 16) 16 a = boxDecryptSymOperands a := ⟨rfl, rfl⟩

/-- The check of such a row passes if its ranges are in BUF and the output shares no byte with an input (20_memory
R70, R71). -/
theorem checkArgs_symOperands {size m minLen : Nat} {a : ArgFile} (hL : minLen ≤ a.x2.toNat)
    (h0 : a.x0.toNat + m ≤ size) (h1 : a.x1.toNat + a.x2.toNat ≤ size) (h3 : a.x3.toNat + 32 ≤ size)
    (h4 : a.x4.toNat + 24 ≤ size) (h01 : Range.disjoint ⟨a.x0.toNat, m⟩ ⟨a.x1.toNat, a.x2.toNat⟩)
    (h03 : Range.disjoint ⟨a.x0.toNat, m⟩ ⟨a.x3.toNat, 32⟩) (h04 : Range.disjoint ⟨a.x0.toNat, m⟩ ⟨a.x4.toNat, 24⟩) :
    checkArgs size (symOperands m minLen a) = .ok := by
  refine (checkArgs_eq_ok_one _ _ _ rfl).mpr ⟨hL, ?_, ?_, nofun⟩
  · simpa [symOperands] using ⟨h0, h1, h3, h4⟩
  · simpa [symOperands] using ⟨h01, h03, h04⟩

/-- Settles O41: BOX_BEFORENM reads two 32-byte operands, as X25519 does. -/
theorem boxBeforenmWritesTheSharedKey : Obligations.BoxBeforenmWritesTheSharedKey :=
  fun _ _ _ h0 h1 h2 h01 h02 hpk hsk => pointCommand_completes boxBeforenm h0 h1 h2 h01 h02 hpk hsk

/-- A command that writes one string, free bytes in it, and returns OK (45_control R252, R253). -/
theorem succeed_drawn_memWrite (k a : Nat) (v : Bytes) (s : State) : succeed (drawn k (memWrite a v s)) =
    .next { s with
      busy := false, done := true, errcode := .ok, mem := Memory.writeBytes s.mem a v, draws := s.draws + k } := rfl

/-- Settles O42: the one write of the output is the write of its 16 free bytes, then of the rest. -/
theorem boxAfternmWritesTagAndPayload : Obligations.BoxAfternmWritesTagAndPayload := by
  intro s E key n x L C hL h0 h1 h3 h4 h01 h03 h04 hE hkey hn
  have hC : boxCipher key n E = C := by rw [boxCipher, Memory.readBytes_length hE]
  refine (boxCommand_reads _ (checkArgs_boxAfternmOperands hL h0 h1 h3 h4 h01 h03 h04) hE hkey hn).trans ?_
  rw [succeed_drawn_memWrite, boxAfternm, hC, List.append_assoc, Memory.writeBytes_append, freeBytes_length,
    freeBytes_eq_map]
  rfl

/-- Settles O43: the head of the keystream is the one-time key, and only a matching tag gives a string to write. -/
theorem boxOpenAfternmReleasesOnlyAuthentic : Obligations.BoxOpenAfternmReleasesOnlyAuthentic := by
  intro s C key n x L S hL h0 h1 h3 h4 h01 h03 h04 hC hkey hn
  have hlen : C.length = L := Memory.readBytes_length hC
  have hcheck : checkArgs s.bufSize (boxOpenAfternmOperands x) = .ok :=
    checkArgs_boxAfternmOperands hL h0 h1 h3 h4 h01 h03 h04
  refine (boxCommand_reads _ hcheck hC hkey hn).trans ?_
  rw [boxOpenAfternm_eq key n (hL.trans_eq hlen.symm), boxPayload_of_length key n (L := L) (by simp; omega),
    take_xsalsa20Stream key n hL]
  split_ifs
  · exact succeed_memWrite ..
  · rfl

/-- Settles O44: the MAC and the ciphertext are what a zero lead leaves of the box past its free bytes. -/
theorem boxEncryptSymWritesMacThenCiphertext : Obligations.BoxEncryptSymWritesMacThenCiphertext := by
  intro s M key n x L S payload h0 h1 h3 h4 h01 h03 h04 hM hkey hn
  have hlen : M.length = L := Memory.readBytes_length hM
  have h01' : Range.disjoint ⟨x.x0.toNat, L + 16⟩ ⟨x.x1.toNat, L⟩ :=
    Range.disjoint_comm (Range.disjoint_of_apart (h01.imp_right Or.symm))
  have hcheck := checkArgs_symOperands (Nat.zero_le _) h0 h1 h3 h4 h01'
    (Range.disjoint_of_apart (.inr h03)) (Range.disjoint_of_apart (.inr h04))
  have hbox : boxEncryptSym key n M = poly1305Tag (S.take 32) payload ++ payload := by
    rw [boxEncryptSym_eq, boxPayload_of_length key n (congrArg (· + 32) hlen),
      take_xsalsa20Stream key n (Nat.le_add_left ..)]
  rw [← hbox]
  exact (boxCommand_reads _ hcheck hM hkey hn).trans (succeed_memWrite ..)

/-- Settles O45: L - 16 bytes of ciphertext meet the keystream past the one-time key; with L = 16 the empty output
shares no byte with any input. -/
theorem boxDecryptSymReleasesOnlyAuthentic : Obligations.BoxDecryptSymReleasesOnlyAuthentic := by
  intro s C key n x L S hL h0 h1 h3 h4 h01 h03 h04 hC hkey hn
  have hlen : C.length = L := Memory.readBytes_length hC
  have hempty : L = 16 → L - 16 = 0 := by omega
  have hcheck := checkArgs_symOperands hL h0 h1 h3 h4 (Range.disjoint_of_apart (h01.imp_left hempty))
    (Range.disjoint_of_apart (h03.imp_left hempty)) (Range.disjoint_of_apart (h04.imp_left hempty))
  refine (boxCommand_reads _ hcheck hC hkey hn).trans ?_
  rw [boxDecryptSym_eq key n (hL.trans_eq hlen.symm), boxPayload_of_length key n (L := L + 16) (by simp; omega),
    take_xsalsa20Stream key n (by omega)]
  split_ifs
  · exact succeed_memWrite ..
  · rfl

end Sys2Proof.Machine

/-! SUPPORT. Proofs of the statements of 45_control.md: issue, the engine's step on the latched word, completion, NOP, and
the frame of every command. -/

namespace Sys2Proof.Machine

/-! ## Issue -/

/-- Settles O14: with BUSY = 0 the write to CMD is the issue. -/
theorem cmdWriteIssues : Obligations.CmdWriteIssues := by
  intro s w hidle
  rw [hostAccess_wr32_cmd, if_neg (by simp [hidle])]; rfl

/-! ## The engine's step -/

/-- A word keeps its number in the host's table of 32-bit words (30_encoding R90). -/
theorem tableWord_toNat (w : Word) : tableWord 32 w.toNat = w := by
  rw [tableWord, Nat.mod_eq_of_lt w.isLt, BitVec.ofNat_toNat, BitVec.setWidth_eq]

/-- Settles O5: an engine's turn, listed or not, is the engine step, which runs what the latched word decodes to; a placed
command's word is latched, and no turn is listed. -/
theorem stepRunsTheLatchedCommand : Obligations.StepRunsTheLatchedCommand := by
  intro s i
  refine ⟨fun hbusy hdecode => ⟨fun hturns => ?_, fun ts hturns => ?_⟩, ?_⟩
  · rw [step_of_busy hbusy hturns, engineStep_of_decode_ok hdecode]
  · obtain ⟨-, hstep, -⟩ := stepFollowsTheTurns s ts
    exact (hstep hturns hbusy).trans (engineStep_of_decode_ok (s := { s with turns := ts }) hdecode)
  · have hlatch : (s.withFetchWord 32 (encode i).toNat).latch.cmd = encode i := tableWord_toNat (encode i)
    rw [step_of_busy rfl rfl, engineStep_of_decode_ok (hlatch ▸ decode_encode i)]

/-- An engine step is the fault UninitRead or a completion, before which only BUF and the count of free bytes change
(45_control R251 to R253). -/
theorem engineStep_completes (s : State) :
    engineStep s = .fault .uninitRead ∨
      ∃ code m d, engineStep s = .next (complete code { s with mem := m, draws := d }) := by
  cases hdecode : decode s.latch.cmd with
  | error code => exact .inr ⟨code, s.mem, s.draws, engineStep_of_decode_error hdecode⟩
  | ok i =>
    rw [engineStep_of_decode_ok hdecode]
    rcases exec_outcome i s with hfault | ⟨code, -, -, h⟩ | ⟨-, ⟨-, h⟩ | ⟨q, B, d, -, -, -, h⟩⟩
    · exact .inl hfault
    · exact .inr ⟨code, s.mem, s.draws, h⟩
    · exact .inr ⟨.ok, s.mem, s.draws, h⟩
    · exact .inr ⟨.ok, Memory.writeBytes s.mem q.off B, s.draws + d, h⟩

/-- Settles O7: the step of an issued command is the engine's, which completes unless it is the fault. -/
theorem issuedCommandCompletesInOneStep : Obligations.IssuedCommandCompletesInOneStep := by
  intro s hbusy hturns
  rw [step_of_busy hbusy hturns]
  exact (engineStep_completes s).imp_right fun ⟨_, _, _, h⟩ => ⟨_, h, rfl, rfl, hturns⟩

/-! ## What the commands change -/

/-- Settles O30: NOP is a completion and nothing before it. -/
theorem nopCompletes : Obligations.NopCompletes := fun _ => rfl

/-- Every byte a string is written to is written (20_memory R65). -/
theorem Memory.isSome_read_writeBytes (m : Memory) {o a : Nat} {B : Bytes} (hlo : o ≤ a) (hhi : a < o + B.length) :
    (Memory.read (Memory.writeBytes m o B) a).isSome = true := by
  obtain ⟨j, rfl⟩ := Nat.exists_eq_add_of_le hlo
  rw [Memory.read_writeBytes_inside B m (by omega)]; rfl

/-- Settles O27, by the ways a command can complete: with an error, with OK and no output range, or with OK and the one
write of exactly its output range. -/
theorem commandsChangeOnlyOutputsAndStatus : Obligations.CommandsChangeOnlyOutputsAndStatus := by
  intro i s t h
  rcases exec_outcome i s with hd | ⟨code, hcode, -, hd⟩ | ⟨-, ⟨houts, hd⟩ | ⟨q, B, d, houts, hlen, -, hd⟩⟩ <;>
    rw [h] at hd
  · cases hd
  all_goals obtain rfl := Host.Outcome.next.inj hd
  · exact ⟨rfl, fun _ _ => rfl, fun _ => ⟨rfl, rfl⟩, fun hok => absurd hok hcode⟩
  · refine ⟨rfl, fun _ _ => rfl, fun _ => ⟨rfl, rfl⟩, fun _ => ?_⟩
    simp [houts]
  · simp only [houts, List.forall_mem_singleton, ← hlen]
    refine ⟨rfl, fun a ha => ?_, fun herr => absurd rfl herr, fun _ a hlo hhi => ?_⟩
    · exact Memory.read_writeBytes_outside B s.mem (by omega)
    · exact Memory.isSome_read_writeBytes s.mem hlo hhi

end Sys2Proof.Machine

/-! SUPPORT. Proofs of the statements of 60_exceptions.md: the three argument checks in their fixed order, and that an
error changes STATUS only. -/

namespace Sys2Proof.Machine

/-! ## The argument checks (R262) -/

theorem Range.overlaps_iff (r q : Range) :
    r.overlaps q = true ↔ 0 < r.len ∧ 0 < q.len ∧ r.off < q.off + q.len ∧ q.off < r.off + r.len := by
  simp [Range.overlaps, and_assoc]

theorem outClashes_iff (o : Operands) (r : Range) :
    outClashes o r = true ↔
      (∃ q ∈ o.ins, r.overlaps q = true) ∨ ∃ q ∈ o.inPlace, r.overlaps q = true ∧ r ≠ q := by
  simp [outClashes]

/-- A row with at most one output range has no two outputs that could clash (20_memory R71). -/
theorem overlapFails_iff {o : Operands} (houts : o.outs = [] ∨ ∃ r, o.outs = [r]) :
    overlapFails o = true ↔ ∃ r ∈ o.outs, outClashes o r = true := by
  have hclash : outsClash o.outs = false := by rcases houts with h | ⟨r, h⟩ <;> rw [h] <;> rfl
  rw [overlapFails, hclash, Bool.or_false, List.any_eq_true]

theorem checkArgs_of_length {size : Nat} {o : Operands} (hlen : o.len < o.minLen) : checkArgs size o = .length :=
  if_pos (decide_eq_true hlen)

/-- Past LENGTH the check is RANGE, then OVERLAP. -/
theorem checkArgs_of_minLen_le {size : Nat} {o : Operands} (hlen : o.minLen ≤ o.len) :
    checkArgs size o = if rangeFails size o then .range else if overlapFails o then .overlap else .ok :=
  if_neg (by simpa [lengthFails] using hlen)

/-- Settles O25: the checks in their order decide between the code and the command, whose other ends `exec_outcome`
lists. -/
theorem argumentChecksInFixedOrder : Obligations.ArgumentChecksInFixedOrder := by
  intro s i hic o failsWith rangesHold overlap clash
  have fails {e : ErrCode} (he : e ≠ .ok) (hcheck : checkArgs s.bufSize o = e) : failsWith e := by
    subst hcheck; exact exec_of_check_error i s hic he
  have hrange : rangeFails s.bufSize o = false ↔ rangesHold := rangeFails_eq_false _ o
  have hclash : overlapFails o = true ↔ clash := by
    simp only [overlapFails_iff (operandsOf_outs i _), outClashes_iff, Range.overlaps_iff, o, clash, overlap]
  refine ⟨fun hlen => ?_, fun hlen hout => ?_, fun hlen hin hmeet => ?_, fun hlen hin hapart => ?_⟩
  · exact fails nofun (checkArgs_of_length hlen)
  · refine fails nofun ?_
    rw [checkArgs_of_minLen_le hlen, Bool.eq_true_of_not_eq_false (mt hrange.mp hout)]; rfl
  · refine fails nofun ?_
    rw [checkArgs_of_minLen_le hlen, hrange.mpr hin, hclash.mpr hmeet]; rfl
  · have hok : checkArgs s.bufSize o = .ok := by
      rw [checkArgs_of_minLen_le hlen, hrange.mpr hin, Bool.eq_false_of_not_eq_true (mt hclash.mp hapart)]; rfl
    rcases exec_outcome i s with hfault | ⟨e, he, hcode | hauth | ⟨-, hic'⟩, h⟩ | ⟨-, ⟨-, h⟩ | ⟨q, B, d, -, -, -, h⟩⟩
    · exact .inl hfault
    · exact absurd (hcode.symm.trans hok) he
    · exact .inr ⟨_, h, .inr hauth⟩
    · simp [hic] at hic'
    · exact .inr ⟨_, h, .inl rfl⟩
    · exact .inr ⟨_, h, .inl rfl⟩

/-! ## What an error changes (R264) -/

/-- Settles O26: a word that selects no form only completes, and a command's error leaves BUF and the free bytes to the
frame of every command. -/
theorem errorsChangeOnlyStatus : Obligations.ErrorsChangeOnlyStatus := by
  intro s t h herr
  cases hdecode : decode s.latch.cmd with
  | error code =>
    obtain rfl := Host.Outcome.next.inj ((engineStep_of_decode_error hdecode).symm.trans h)
    rfl
  | ok i =>
    obtain ⟨hframe, -, hsame, -⟩ :=
      commandsChangeOnlyOutputsAndStatus i s t ((engineStep_of_decode_ok hdecode).symm.trans h)
    obtain ⟨hmem, hdraws⟩ := hsame herr
    rwa [hmem, hdraws] at hframe

end Sys2Proof.Machine

/-! SUPPORT. Proofs of the statements of 70_reset_and_hazards.md: the step that takes a turn of the reset input. -/

namespace Sys2Proof.Machine

/-- A turn of the reset input resets the block, whatever BUSY and LATCH hold (70_reset_and_hazards R290). -/
theorem step_of_reset {s : State} {ts : List Turn} (hturn : s.turns = .reset :: ts) :
    step s = .next (blockReset (setTurns ts s)) := by
  rw [step, stepOnce, hturn]; rfl

/-- STATUS reads 0 after a reset (10_state R37). -/
@[simp] theorem statusWord_blockReset (s : State) : statusWord (blockReset s) = 0#32 :=
  statusWord_eq_zero rfl rfl rfl rfl

/-- IRQ_EN reads 0 after a reset (10_state R37). -/
@[simp] theorem irqEnWord_blockReset (s : State) : irqEnWord (blockReset s) = 0#32 := irqEnWord_eq _

/-- No byte of BUF is written after a reset (10_state R37). -/
theorem read_blockReset_mem (s : State) (a : Nat) : Memory.read (blockReset s).mem a = none := rfl

/-- Settles O9: the step is `blockReset`, which sets each register and empties BUF whatever was there. -/
theorem resetInputRestoresTheResetState : Obligations.ResetInputRestoresTheResetState :=
  fun s ts hturn => ⟨blockReset (setTurns ts s), step_of_reset hturn, rfl, rfl, rfl, rfl, rfl, ArgFile.get_zero,
    irqEnWord_blockReset _, statusWord_blockReset _, rfl, rfl, rfl, rfl, rfl, read_blockReset_mem _⟩

end Sys2Proof.Machine
